-- ==== Sys2Proof/Word.lean ====
section
/-! DEFINITION. The words of the block: bytes, the 11-bit command word (R70) and the 16-bit Symbol ROM word (R77). -/

namespace Sys2Proof

/-- A byte is 8 bits, bit 0 least significant (R10). -/
abbrev Byte := BitVec 8

/-- The command word `cmd[10:0]` (R70). -/
abbrev CmdWord := BitVec 11

/-- One entry of the Symbol ROM, packed (R77). -/
abbrev RomWord := BitVec 16

end Sys2Proof
end

