-- ==== Sys2Proof/Syntax.lean ====
section
/-! DEFINITION. The six commands of the block (R2, R71), one constructor per row of spec/opcode_table.json. -/

namespace Sys2Proof

/-- A command of the block. An operand's type holds exactly the values the row admits (R73). -/
inductive Instr where
  /-- `START` (R101). -/
  | start
  /-- `STOP` (R102). -/
  | stop
  /-- `WRITE_BYTE b` (R103). -/
  | writeByte (b : Byte)
  /-- `READ_BYTE sendAck` (R104): `true` asks for another byte. -/
  | readByte (sendAck : Bool)
  /-- `SEND_CHAR c` (R166): any byte is a legal character. -/
  | sendChar (c : Byte)
  /-- `IDLE` (R105). -/
  | idle
  deriving DecidableEq, Repr

end Sys2Proof
end

