-- ==== Sys2Proof/Config.lean ====
section
/-! DEFINITION. The parameters of 00_scope.md R8, the OPEN ones and the free values as constants with no body. -/

namespace Sys2Proof

/-- A Symbol Table entry (R77): the ASCII byte, the number of significant bits and the bit pattern. -/
structure SymbolEntry where
  character : Byte
  length : BitVec 3
  code : BitVec 5
  deriving DecidableEq, Repr

/-- The registers of an operation in flight (R34, R35). `cyc` has the width `UNIT_CYCLES - 1` needs, which is an
open parameter, so it is a natural number. -/
structure InFlight where
  /-- `ARG`: the argument of the command in flight. -/
  arg : Byte
  /-- `SHR`: the byte being sent or assembled. -/
  shr : Byte
  /-- `BITCNT`: clock pulses done of a byte operation. -/
  bitcnt : BitVec 4
  /-- `ENT_CODE`: the code of the entry found. -/
  entCode : BitVec 5
  /-- `ENT_LEN`: the length of the entry found. -/
  entLen : BitVec 3
  /-- `IDX`: the bit position being emitted. -/
  idx : BitVec 3
  /-- `UCNT`: time-units left in the current segment. -/
  ucnt : BitVec 3
  /-- `CYC`: clock cycles left in the current unit. -/
  cyc : Nat
  deriving DecidableEq, Repr, Inhabited

/-- The free values of one step: what the target oracle answers (R56, R118) and what the spec calls any value
(93_implementation_defined.md U10, U20). -/
structure Draw where
  /-- The target holds the bus at this step's stall point (R118). -/
  hold : Bool
  /-- The acknowledge bit a written byte gets: `true` is not acknowledged (R103, U4). -/
  nack : Bool
  /-- The byte a read gets (R104, U5). -/
  data : Byte
  /-- `SDA_O` while a bracket is open, at the transaction level (R27, U20). -/
  sda : Bool
  /-- `SCL_O` while a bracket is open, at the transaction level (R27, U20). -/
  scl : Bool
  /-- What the in-flight registers hold once no operation needs them (R34, R35, U10). -/
  dead : InFlight
  deriving DecidableEq, Repr, Inhabited

namespace Config

/-! ### Constants of the source (R8) -/

/-- `DIT_ON`. -/
def ditOn : Nat := 1
/-- `DAH_ON`. -/
def dahOn : Nat := 3
/-- `ELEM_GAP`. -/
def elemGap : Nat := 1
/-- `LETTER_SIL`. -/
def letterSil : Nat := 3
/-- `WORD_SIL`. -/
def wordSil : Nat := 7
/-- `UNIT_MS`, the reference duration of one unit (R178). -/
def unitMs : Nat := 100
/-- `MAXLEN`, the largest length of an entry. -/
def maxLen : Nat := 5
/-- `ADDR_W`, the sensor's write address byte. -/
def addrW : Byte := 0x90#8
/-- `ADDR_R`, the sensor's read address byte. -/
def addrR : Byte := 0x91#8
/-- `CMD_ACCESS_CONFIG`. -/
def cmdAccessConfig : Byte := 0xAC#8
/-- `CMD_START_CONVERT`. -/
def cmdStartConvert : Byte := 0xEE#8
/-- `CMD_READ_TEMP`. -/
def cmdReadTemp : Byte := 0xAA#8
/-- `INIT_MODE`, an opaque mode byte. -/
def initMode : Byte := 8#8
/-- `MSG_LEN` (90_conflicts.md C2: 52, not 51). -/
def msgLen : Nat := 52
/-- `TX_DELAY_S`, the host's delay between transmissions. -/
def txDelayS : Nat := 3

/-! ### Open parameters and free values: no body, so no proof can lean on a value -/

/-- The free values of the `n`-th step (R56; assumption log 3). -/
opaque draw : Nat → Draw

/-- `SYMTAB_ABSENT` (R157; assumption log 7): read only for the eight letters that may be absent. -/
opaque letterAbsent : Byte → Bool

/-- `KEY_ACTIVE_LEVEL` (R24; assumption log 10). -/
opaque keyActiveLevel : Bool

/-- `UNIT_CYCLES - 1` (assumption log 10). -/
opaque unitCyclesLessOne : Nat

/-- `BUS_HALF_CYCLES - 1` (assumption log 10). -/
opaque busHalfCyclesLessOne : Nat

/-- The host's text for a reading whose absolute value needs three digits (R186, U7; assumption log 13). -/
opaque wideMessage : Int → List Byte

/-- `UNIT_CYCLES`, an integer of at least 1. -/
def unitCycles : Nat := unitCyclesLessOne + 1

/-- `BUS_HALF_CYCLES`, an integer of at least 1. -/
def busHalfCycles : Nat := busHalfCyclesLessOne + 1

end Config

end Sys2Proof
end

