-- ==== Sys2Proof/WellFormed.lean ====
section
/-! DEFINITION. Checks on the two things a model takes as given: a Symbol Table (R159) and a command list (R51, R110).
A single command needs none: every value of `Instr` has a legal word. -/

namespace Sys2Proof

namespace SymbolTable

/-- Every `character` is distinct (R152, R159). -/
def charactersDistinct (tab : List SymbolEntry) : Bool :=
  decide (tab.map SymbolEntry.character).Nodup

/-- Exactly one entry has `length = 0` and its character is the space 0x20 (R152, R159). -/
def oneSentinel (tab : List SymbolEntry) : Bool :=
  decide ((tab.filter (fun e => e.length == 0#3)).map SymbolEntry.character = [0x20#8])

/-- Every `length` is at most 5 (R159). -/
def lengthsInRange (tab : List SymbolEntry) : Bool :=
  tab.all (fun e => decide (e.length.toNat ≤ Config.maxLen))

/-- Every `code` is below `2 ^ length` (R159). -/
def codesFit (tab : List SymbolEntry) : Bool :=
  tab.all (fun e => decide (e.code.toNat < 2 ^ e.length.toNat))

/-- A well-formed table (R159). -/
def wf (tab : List SymbolEntry) : Bool :=
  charactersDistinct tab && oneSentinel tab && lengthsInRange tab && codesFit tab

end SymbolTable

/-- What stands inside a bracket: nothing is open, an address byte is due, bytes are being written, bytes are being read
(R51, R52). -/
inductive BusPhase where
  | closed
  | address
  | writing
  | reading
  deriving DecidableEq, Repr

/-- The phase an address byte opens: bit 0 is 1 for a following read (R52, R75). -/
def BusPhase.ofAddress (b : Byte) : BusPhase := if b.getLsbD 0 then .reading else .writing

namespace CommandList

/-- The direction discipline (R51, R52, R120), wider than the grammar of R51: the first byte after a start is an address
byte, written, and its bit 0 says whether the bytes that follow are written or read. -/
def phaseAfter : Instr → BusPhase → Option BusPhase
  | .start, _ => some .address
  | .stop, .closed => none
  | .stop, _ => some .closed
  | .writeByte b, .address => some (.ofAddress b)
  | .writeByte _, .writing => some .writing
  | .writeByte _, .closed => none
  | .writeByte _, .reading => none
  | .readByte _, .reading => some .reading
  | .readByte _, .closed => none
  | .readByte _, .address => none
  | .readByte _, .writing => none
  | .idle, .closed => some .closed
  | .idle, .address => none
  | .idle, .writing => none
  | .idle, .reading => none
  | .sendChar _, p => some p

/-- The phase after a whole command list, `none` if a command of it breaks the direction discipline. -/
def phasesFrom : BusPhase → List Instr → Option BusPhase
  | p, [] => some p
  | p, i :: is => (phaseAfter i p).bind (fun p' => phasesFrom p' is)

/-- The bracket state after one command, `none` where the bracket discipline forbids it (R110). -/
def bracketAfter : Instr → Bool → Option Bool
  | .start, _ => some true
  | .stop, true => some false
  | .stop, false => none
  | .writeByte _, true => some true
  | .writeByte _, false => none
  | .readByte _, true => some true
  | .readByte _, false => none
  | .idle, false => some false
  | .idle, true => none
  | .sendChar _, b => some b

/-- The bracket state after a whole command list, `none` if a command of it breaks the discipline (R110). -/
def bracketsFrom : Bool → List Instr → Option Bool
  | b, [] => some b
  | b, i :: is => (bracketAfter i b).bind (fun b' => bracketsFrom b' is)

/-- `R(d, 1)* R(d, 0) P` of the grammar of R51, as commands. -/
def readsThenStop : List Instr → Bool
  | .readByte true :: is => readsThenStop is
  | [.readByte false, .stop] => true
  | _ => false

/-- What may follow `S W(ADDR_W, n)` in the grammar of R51, as commands. -/
def afterWriteAddress : List Instr → Bool
  | [.stop] => true
  | .writeByte _ :: is => afterWriteAddress is
  | .start :: .writeByte a :: is => decide (a = Config.addrR) && readsThenStop is
  | _ => false

/-- One BusTransaction, in either of its two shapes (R51, R120). -/
def isTransaction : List Instr → Bool
  | .start :: .writeByte a :: is => decide (a = Config.addrW) && afterWriteAddress is
  | _ => false

end CommandList

end Sys2Proof
end

