-- ==== Sys2Proof/Decode.lean ====
section
/-! DEFINITION. The command word: fields, decoder and encoder (R70, R71, R73, R74). -/

namespace Sys2Proof

/-- Why a command word is illegal (R74). -/
inductive IllegalWord where
  /-- `op = 6` or `op = 7`. -/
  | reservedOp
  /-- `START`, `STOP` or `IDLE` with a nonzero `arg`. -/
  | argNotZero
  /-- `READ_BYTE` with a nonzero `arg[7:1]`. -/
  | readArgReserved
  deriving DecidableEq, Repr

/-- `op = cmd[10:8]` (R70). -/
def opField (w : CmdWord) : BitVec 3 := w.extractLsb' 8 3

/-- `arg = cmd[7:0]` (R70). -/
def argField (w : CmdWord) : Byte := w.extractLsb' 0 8

/-- A command that takes no operand: `arg` must be 0 (R74). -/
def decodeNoArg (i : Instr) (arg : Byte) : Except IllegalWord Instr :=
  if arg = 0#8 then .ok i else .error .argNotZero

/-- `READ_BYTE`: `sendAck = arg[0]`, and `arg[7:1]` must be 0 (R73, R74). -/
def decodeRead (arg : Byte) : Except IllegalWord Instr :=
  if arg.extractLsb' 1 7 = 0#7 then .ok (.readByte (arg.getLsbD 0)) else .error .readArgReserved

/-- The opcode map (R71), with the reason of every illegal word (R74). Total on the 2048 words. -/
def decodeWord (w : CmdWord) : Except IllegalWord Instr :=
  match (opField w).toNat with
  | 0 => decodeNoArg .start (argField w)
  | 1 => decodeNoArg .stop (argField w)
  | 2 => .ok (.writeByte (argField w))
  | 3 => decodeRead (argField w)
  | 4 => .ok (.sendChar (argField w))
  | 5 => decodeNoArg .idle (argField w)
  | _ => .error .reservedOp

/-- The command a word stands for, `none` where the word is illegal. -/
def decode (w : CmdWord) : Option Instr :=
  match decodeWord w with
  | .ok i => some i
  | .error _ => none

/-- The operation code of a command (R71). -/
def opOf : Instr → BitVec 3
  | .start => 0#3
  | .stop => 1#3
  | .writeByte _ => 2#3
  | .readByte _ => 3#3
  | .sendChar _ => 4#3
  | .idle => 5#3

/-- The argument of a command (R71, R73). -/
def argOf : Instr → Byte
  | .start => 0#8
  | .stop => 0#8
  | .writeByte b => b
  | .readByte a => if a then 1#8 else 0#8
  | .sendChar c => c
  | .idle => 0#8

/-- The command word of a command: `op` in `cmd[10:8]`, `arg` in `cmd[7:0]` (R70). -/
def encode (i : Instr) : CmdWord := opOf i ++ argOf i

/-- `match` and `mask` of the command's row of the opcode map (R71). -/
def tableRow : Instr → CmdWord × CmdWord
  | .start => (0x000#11, 0x7FF#11)
  | .stop => (0x100#11, 0x7FF#11)
  | .writeByte _ => (0x200#11, 0x700#11)
  | .readByte _ => (0x300#11, 0x7FE#11)
  | .sendChar _ => (0x400#11, 0x700#11)
  | .idle => (0x500#11, 0x7FF#11)

/-- What the decoder reads from a table word: the low `nbits` bits of `w` are the word offered on `cmd[10:0]`, and a
number that needs a bit above `cmd[10]` is no command word (assumption log 6). -/
def decodeTableWord (nbits w : Nat) : Option Instr :=
  let v := w % 2 ^ nbits
  if v < 2048 then decode (BitVec.ofNat 11 v) else none

end Sys2Proof
end

