-- ==== Sys2Proof/Machine/State.lean ====
section
/-! DEFINITION. The state of the block as plain data (10_state.md), its reset value (R39), and the reasons a step stops. -/

namespace Sys2Proof.Machine

/-- A bus event, the alphabet of BUSTRACE (R32). -/
inductive BusEvent where
  /-- `S`: a start condition opening a bracket. -/
  | start
  /-- `Sr`: a repeated start. -/
  | repStart
  /-- `P`: a stop condition. -/
  | stop
  /-- `W(b, n)`: byte `b` sent, answered by acknowledge bit `n` (`true` is not acknowledged). -/
  | write (b : Byte) (nack : Bool)
  /-- `R(d, a)`: byte `d` received, answered with acknowledge (`true`) or without. -/
  | read (d : Byte) (ack : Bool)
  /-- `I`: both lines driven to idle-high. -/
  | idle
  deriving DecidableEq, Repr

/-- A segment `(level, units)` of KEYTRACE (R33). -/
structure Segment where
  level : Bool
  units : Nat
  deriving DecidableEq, Repr

/-- A response: `rsp_data` and `rsp_nack` (R72). -/
structure Response where
  data : Byte
  nack : Bool
  deriving DecidableEq, Repr

/-- One thing the host does (R268). -/
inductive HostAct where
  /-- Offer a command word until it is accepted (R42). -/
  | offer (w : CmdWord)
  /-- Offer nothing for one step: a delay of the host's own (R267). -/
  | wait
  /-- Wait for the response of the command just offered and take its byte as the reading: the next `sendReading` becomes
  the message for it (R133, R139, R267, R268). -/
  | takeReading
  /-- The place of the message for a reading not yet taken: a host that comes here without one has nothing to offer. -/
  | sendReading
  /-- Assert `rst` (R260, R268). -/
  | reset
  deriving DecidableEq, Repr

/-- The whole state. Registers first, by owner; then the observation traces; then the response ports; then the model's
own fields: the command a stalled target holds up, what the host still does, and the free values of the step. -/
structure State where
  /-- `BRK` (R21). -/
  brk : Bool
  /-- `NACK` (R22): `true` is not acknowledged. -/
  nack : Bool
  /-- `RXB` (R23). -/
  rxb : Byte
  /-- `SDA_O` (R27): `true` is released. -/
  sdaO : Bool
  /-- `SCL_O` (R27): `true` is released. -/
  sclO : Bool
  /-- `KEY` (R24): `true` is asserted. -/
  key : Bool
  /-- `FLT` (R25): 0 no fault, 1 `ILLEGAL_CMD`, 2 `BUS_PROTOCOL`. -/
  flt : BitVec 2
  /-- `BUSY` (R26). -/
  busy : Bool
  /-- The registers of an operation in flight (R34, R35). -/
  inFlight : InFlight
  /-- `BUSTRACE` (R32), oldest first. -/
  busTrace : List BusEvent
  /-- `KEYTRACE` (R33), oldest first. -/
  keyTrace : List Segment
  /-- `T` (R33). -/
  time : Nat
  /-- The response given by the last step: `none` is `rsp_valid = 0` (R41, R42). -/
  rsp : Option Response
  /-- The model's own: the command in flight that the target has not yet let complete (R118). -/
  held : Option Instr
  /-- The model's own: what the host still does (R29 (a)). -/
  host : List HostAct
  /-- The model's own: the free values of this step (R56). -/
  draw : Draw
  /-- The model's own: how many draws have been taken. -/
  draws : Nat
  deriving DecidableEq, Repr

/-- Why a step stops the model. The block's own faults are no stops: they are values of `FLT`. -/
inductive Fault where
  /-- Raised by `step` alone, in a state with `BUSY = 1` and no command recorded in flight. BUSY is 1 only from a
  command's acceptance to its response (R26), so no rule describes such a state and no run from reset reaches it.
  Safe: the model stops where the spec says nothing. -/
  | busyWithoutCommand
  deriving DecidableEq, Repr

/-- Why an instruction has no meaning. -/
inductive Refusal where
  /-- Raised by an arm of `exec` for an instruction not modelled yet; no arm is so. Safe. -/
  | notModelled (mnemonic : String)
  deriving DecidableEq, Repr

/-- What the command port does in a step (`Machine/Port.lean`). -/
inductive Task where
  /-- The step is over with this state: nothing was accepted, a fault was taken, or the block was reset. -/
  | settle (s : State)
  /-- This command is performed from this state. -/
  | run (i : Instr) (s : State)
  /-- No rule gives a step. -/
  | stuck
  deriving DecidableEq, Repr

/-- In-flight registers after reset: unspecified by R39, so a value the model names (assumption log 4). -/
def inFlightReset : InFlight :=
  { arg := 0#8, shr := 0#8, bitcnt := 0#4, entCode := 0#5, entLen := 0#3, idx := 0#3, ucnt := 0#3, cyc := 0 }

/-- The free values the reset state carries: dead data, replaced by every step before anything reads it
(assumption log 3). -/
def drawReset : Draw :=
  { hold := false, nack := false, data := 0#8, sda := true, scl := true, dead := inFlightReset }

/-- The machine right after reset (R39, R261), with a host that offers nothing. -/
def State.reset : State :=
  { brk := false, nack := false, rxb := 0x00#8, sdaO := true, sclO := true, key := false, flt := 0#2, busy := false,
    inFlight := inFlightReset, busTrace := [], keyTrace := [], time := 0, rsp := none, held := none, host := [],
    draw := drawReset, draws := 0 }

end Sys2Proof.Machine
end

