-- ==== Sys2Proof/Machine/Flags.lean ====
section
/-! DEFINITION. Status bits and output ports: fault codes, readiness, the bracket check and the ports of R41. -/

namespace Sys2Proof.Machine

/-- `FLT` code of `ILLEGAL_CMD` (R241). -/
def fltIllegalCmd : BitVec 2 := 1#2

/-- `FLT` code of `BUS_PROTOCOL` (R242). -/
def fltBusProtocol : BitVec 2 := 2#2

/-- `FLT` is sticky: it is written only when it is 0 (R25, R240). -/
def stickyFlt (old code : BitVec 2) : BitVec 2 := if old = 0#2 then code else old

/-- `cmd_ready = (BUSY = 0 and FLT = 0)` (R26). -/
def State.cmdReady (s : State) : Bool := !s.busy && decide (s.flt = 0#2)

/-- The bracket discipline (R110): whether a command may be issued with this `BRK`. -/
def bracketLegal : Instr → Bool → Bool
  | .start, _ => true
  | .stop, brk => brk
  | .writeByte _, brk => brk
  | .readByte _, brk => brk
  | .sendChar _, _ => true
  | .idle, brk => !brk

/-- Port `rsp_valid` (R41). -/
def State.rspValid (s : State) : Bool := s.rsp.isSome

/-- Port `brk_o` (R31). -/
def State.brkO (s : State) : Bool := s.brk

/-- Port `flt_o` (R31). -/
def State.fltO (s : State) : BitVec 2 := s.flt

/-- Level of `key_o` for a given `KEY_ACTIVE_LEVEL`: `KEY` when it is 1, the complement when it is 0 (R24). -/
def keyLevel (activeLevel key : Bool) : Bool := if activeLevel then key else !key

/-- Port `key_o` (R24, R41). -/
def State.keyO (s : State) : Bool := keyLevel Config.keyActiveLevel s.key

end Sys2Proof.Machine
end

