-- ==== Sys2Proof/Machine/Operands.lean ====
section
/-! DEFINITION. Operand forms: sign extension (R11), the address byte (R75), the Symbol ROM word (R77), code bits (R78),
and what the target answers (R11, R56). -/

namespace Sys2Proof.Machine

/-- `sext_8` (R11): the integer in -128..127 whose two's complement form is the byte. -/
def sext8 (v : Byte) : Int := if v.toNat < 128 then (v.toNat : Int) else (v.toNat : Int) - 256

/-- `zext_8` (R11). -/
def zext8 (v : Byte) : Nat := v.toNat

/-- The address byte `(addr7, rw)` (R75): `rw` is `true` for a following read. -/
def addressByte (addr7 : BitVec 7) (rw : Bool) : Byte := addr7 ++ BitVec.ofBool rw

/-- A Symbol Table entry as one ROM word: character, length, code from the top (R77). -/
def packEntry (e : SymbolEntry) : RomWord := (e.character ++ e.length ++ e.code : BitVec 16)

/-- The entry a ROM word holds (R77). -/
def unpackEntry (w : RomWord) : SymbolEntry :=
  { character := w.extractLsb' 8 8, length := w.extractLsb' 5 3, code := w.extractLsb' 0 5 }

/-- Bit `code[i]`: `true` selects a dit, `false` a dah (R78). -/
def isDit (code : BitVec 5) (i : Nat) : Bool := code.getLsbD i

/-- `TargetWrite(b)` (R11): the acknowledge bit of this step's draw. The byte does not constrain it (R56). -/
def State.targetWrite (s : State) (_b : Byte) : Bool := s.draw.nack

/-- `TargetRead(ack)` (R11): the byte of this step's draw. The acknowledge does not constrain it (R56). -/
def State.targetRead (s : State) (_ack : Bool) : Byte := s.draw.data

end Sys2Proof.Machine
end

