-- ==== Sys2Proof/Machine/Ops.lean ====
section
/-! DEFINITION. The named operations over State that every meaning is made of (R11), taking a fault (R240) and the one way
out of it, reset (R260). -/

namespace Sys2Proof.Machine

/-- New free values are drawn (R56, U10). -/
def State.redraw (s : State) : State := { s with draw := Config.draw s.draws, draws := s.draws + 1 }

/-- The start of a step: the target's answers and the other free values of this step are drawn (R56), and the response
of the step before, valid for one cycle, is over (R41). -/
def State.sample (s : State) : State := { s.redraw with rsp := none }

/-- The same state with given free values: for claims about every answer of the target. -/
def State.withDraw (d : Draw) (s : State) : State := { s with draw := d }

/-- `emit_bus(ev)` (R11, R32). -/
def State.emitBus (ev : BusEvent) (s : State) : State := { s with busTrace := s.busTrace ++ [ev] }

/-- `emit_key(level, units)` (R11, R33). -/
def State.emitKey (level : Bool) (units : Nat) (s : State) : State :=
  { s with key := level, keyTrace := s.keyTrace ++ [Segment.mk level units], time := s.time + units }

/-- `BRK <- v` (R21). -/
def State.setBrk (v : Bool) (s : State) : State := { s with brk := v }

/-- Both lines released: idle-high (R27). -/
def State.releaseLines (s : State) : State := { s with sdaO := true, sclO := true }

/-- The lines after a bus command that leaves a bracket open: any value at the transaction level (R27, U20). -/
def State.freeLines (s : State) : State := { s with sdaO := s.draw.sda, sclO := s.draw.scl }

/-- A command completes: its response is given (R72), `BUSY` is 0 again (R26) and nothing of the operation in flight
survives (R34, R35). -/
def State.complete (data : Byte) (nack : Bool) (s : State) : State :=
  { s with busy := false, held := none, rsp := some (Response.mk data nack), inFlight := s.draw.dead }

/-- The target holds the bus: the command stays in flight, `BUSY` is 1, there is no response and no event (R118, R233).
`ARG` is live; the transfer's own registers and the lines are any value, the place of the stall being unknown. -/
def State.park (i : Instr) (s : State) : State :=
  { s with busy := true, held := some i, rsp := none, inFlight := { s.draw.dead with arg := argOf i },
           sdaO := s.draw.sda, sclO := s.draw.scl }

/-- `raise` (R240): `FLT` takes the code if it is 0, no other register changes, no response is given. -/
def State.takeFault (code : BitVec 2) (s : State) : State := { s with flt := stickyFlt s.flt code, rsp := none }

/-- Reset (R260): every register takes its reset value and the traces restart; a command in flight is abandoned without
a response. It is the only way out of a fault (R244) and of a hang (R233). The host and the target are not reset. -/
def State.hardReset (s : State) : State :=
  { State.reset with host := s.host, draw := s.draw, draws := s.draws }

/-- `stall_point()` (R11, R118): the command completes if the target lets it, else it is parked. -/
def waitTarget (i : Instr) (finish : State → State) (s : State) : Host.Outcome State Fault Refusal :=
  .next (if s.draw.hold then s.park i else finish s)

/-- The bracket check at acceptance, before any effect (R110, R242). -/
def guardBracket (i : Instr) (run : State → Host.Outcome State Fault Refusal) (s : State) :
    Host.Outcome State Fault Refusal :=
  if bracketLegal i s.brk then run s else .next (s.takeFault fltBusProtocol)

end Sys2Proof.Machine
end

