-- ==== Sys2Proof/Machine/Bus.lean ====
section
/-! DEFINITION. The Bus Transaction Primitive at the transaction level (40_bus_primitive.md): START, STOP, WRITE_BYTE,
READ_BYTE, IDLE. -/

namespace Sys2Proof.Machine

/-- What a completed `START` does (R101): event `S` or `Sr`, `BRK <- 1`, response 0. -/
def finishStart (s : State) : State :=
  ((s.emitBus (if s.brk then .repStart else .start)).setBrk true).complete 0x00#8 false

/-- What a completed `STOP` does (R102): event `P`, `BRK <- 0`, both lines released, response 0. -/
def finishStop (s : State) : State :=
  (((s.emitBus .stop).setBrk false).releaseLines).complete 0x00#8 false

/-- What a completed `WRITE_BYTE b` answered by `n` does (R103): event `W(b, n)`, `NACK <- n`, `rsp_nack = n`. -/
def finishWrite (b : Byte) (n : Bool) (s : State) : State :=
  { s.emitBus (.write b n) with nack := n }.complete 0x00#8 n

/-- What a completed `READ_BYTE a` answered by `d` does (R104): event `R(d, a)`, `RXB <- d`, `rsp_data = d`. -/
def finishRead (a : Bool) (d : Byte) (s : State) : State :=
  { s.emitBus (.read d a) with rxb := d }.complete d false

/-- What a completed `IDLE` does (R105): both lines released, event `I`, response 0. -/
def finishIdle (s : State) : State :=
  ((s.releaseLines).emitBus .idle).complete 0x00#8 false

/-- `START` (R101). Only the repeated start has a stall point (R118). -/
def execStart (s : State) : Host.Outcome State Fault Refusal :=
  guardBracket .start
    (fun s => if s.brk then waitTarget .start (fun s => (finishStart s).freeLines) s else .next (finishStart s).freeLines) s

/-- `STOP` (R102). -/
def execStop (s : State) : Host.Outcome State Fault Refusal :=
  guardBracket .stop (waitTarget .stop finishStop) s

/-- `WRITE_BYTE b` (R103). -/
def execWriteByte (b : Byte) (s : State) : Host.Outcome State Fault Refusal :=
  guardBracket (.writeByte b)
    (waitTarget (.writeByte b) (fun s => (finishWrite b (s.targetWrite b) s).freeLines)) s

/-- `READ_BYTE sendAck` (R104). -/
def execReadByte (sendAck : Bool) (s : State) : Host.Outcome State Fault Refusal :=
  guardBracket (.readByte sendAck)
    (waitTarget (.readByte sendAck) (fun s => (finishRead sendAck (s.targetRead sendAck) s).freeLines)) s

/-- `IDLE` (R105): no stall point. -/
def execIdle (s : State) : Host.Outcome State Fault Refusal :=
  guardBracket .idle (fun s => .next (finishIdle s)) s

end Sys2Proof.Machine
end

