-- ==== Sys2Proof/Machine/SymbolTable.lean ====
section
/-! DEFINITION. The Symbol Table in force and LOOKUP (42_symbol_table.md). -/

namespace Sys2Proof.Machine

/-- The letters a to m of the default table (R155). -/
def symtabLettersLow : List SymbolEntry :=
  [ { character := 0x61#8, length := 2#3, code := 0b00010#5 }, { character := 0x62#8, length := 4#3, code := 0b00111#5 },
    { character := 0x63#8, length := 4#3, code := 0b00101#5 }, { character := 0x64#8, length := 3#3, code := 0b00011#5 },
    { character := 0x65#8, length := 1#3, code := 0b00001#5 }, { character := 0x66#8, length := 4#3, code := 0b01101#5 },
    { character := 0x67#8, length := 3#3, code := 0b00001#5 }, { character := 0x68#8, length := 4#3, code := 0b01111#5 },
    { character := 0x69#8, length := 2#3, code := 0b00011#5 }, { character := 0x6A#8, length := 4#3, code := 0b01000#5 },
    { character := 0x6B#8, length := 3#3, code := 0b00010#5 }, { character := 0x6C#8, length := 4#3, code := 0b01011#5 },
    { character := 0x6D#8, length := 2#3, code := 0b00000#5 } ]

/-- The letters n to z of the default table (R155). -/
def symtabLettersHigh : List SymbolEntry :=
  [ { character := 0x6E#8, length := 2#3, code := 0b00001#5 }, { character := 0x6F#8, length := 3#3, code := 0b00000#5 },
    { character := 0x70#8, length := 4#3, code := 0b01001#5 }, { character := 0x71#8, length := 4#3, code := 0b00010#5 },
    { character := 0x72#8, length := 3#3, code := 0b00101#5 }, { character := 0x73#8, length := 3#3, code := 0b00111#5 },
    { character := 0x74#8, length := 1#3, code := 0b00000#5 }, { character := 0x75#8, length := 3#3, code := 0b00110#5 },
    { character := 0x76#8, length := 4#3, code := 0b01110#5 }, { character := 0x77#8, length := 3#3, code := 0b00100#5 },
    { character := 0x78#8, length := 4#3, code := 0b00110#5 }, { character := 0x79#8, length := 4#3, code := 0b00100#5 },
    { character := 0x7A#8, length := 4#3, code := 0b00011#5 } ]

/-- The digits, the slash and the space of the default table (R155). -/
def symtabOthers : List SymbolEntry :=
  [ { character := 0x30#8, length := 5#3, code := 0b00000#5 }, { character := 0x31#8, length := 5#3, code := 0b10000#5 },
    { character := 0x32#8, length := 5#3, code := 0b11000#5 }, { character := 0x33#8, length := 5#3, code := 0b11100#5 },
    { character := 0x34#8, length := 5#3, code := 0b11110#5 }, { character := 0x35#8, length := 5#3, code := 0b11111#5 },
    { character := 0x36#8, length := 5#3, code := 0b01111#5 }, { character := 0x37#8, length := 5#3, code := 0b00111#5 },
    { character := 0x38#8, length := 5#3, code := 0b00011#5 }, { character := 0x39#8, length := 5#3, code := 0b00001#5 },
    { character := 0x2F#8, length := 5#3, code := 0b01101#5 }, { character := 0x20#8, length := 0#3, code := 0b00000#5 } ]

/-- The default Symbol Table, 38 entries in ROM index order (R155). -/
def defaultSymtab : List SymbolEntry := symtabLettersLow ++ symtabLettersHigh ++ symtabOthers

/-- The letters that may be absent: g h l s u v x z (R157). -/
def optionalLetters : List Byte := [0x67#8, 0x68#8, 0x6C#8, 0x73#8, 0x75#8, 0x76#8, 0x78#8, 0x7A#8]

/-- A row is in the table in force unless its letter may be absent and is (R157). -/
def presentIn (absent : Byte → Bool) (c : Byte) : Bool := !(optionalLetters.contains c && absent c)

/-- The table in force for a set of absent letters (R157). -/
def symtabWithout (absent : Byte → Bool) : List SymbolEntry :=
  defaultSymtab.filter (fun e => presentIn absent e.character)

/-- The table in force: `SYMTAB`. -/
def symtab : List SymbolEntry := symtabWithout Config.letterAbsent

/-- The linear scan of R151, first match, over the rows that are present. -/
def scanTable (absent : Byte → Bool) (c : Byte) : List SymbolEntry → Option SymbolEntry
  | [] => none
  | e :: es => if decide (e.character = c) && presentIn absent e.character then some e else scanTable absent c es

/-- `LOOKUP c` for a set of absent letters. -/
def lookupWithout (absent : Byte → Bool) (c : Byte) : Option SymbolEntry := scanTable absent c defaultSymtab

/-- `LOOKUP c` (R151): an entry of the table in force, or `none` for not-found. -/
def lookup (c : Byte) : Option SymbolEntry := lookupWithout Config.letterAbsent c

/-- The Symbol ROM (R64, R77): the table in force, one 16-bit word an entry. -/
def symbolRom : List RomWord := symtab.map packEntry

/-- `code` of a Morse pattern in sending order, `true` a dit: the binary number with digit 1 for each dit, first element
most significant (R156). -/
def codeOfPattern (pattern : List Bool) : Nat := pattern.foldl (fun n dit => 2 * n + (if dit then 1 else 0)) 0

/-- The entry of a character with the given pattern (R156). -/
def entryOfPattern (character : Byte) (pattern : List Bool) : SymbolEntry :=
  { character := character, length := BitVec.ofNat 3 pattern.length, code := BitVec.ofNat 5 (codeOfPattern pattern) }

/-- The elements of an entry in sending order, `true` a dit: code bits from `length-1` down to 0 (R78, R171). -/
def patternOf (e : SymbolEntry) : List Bool := ((List.range e.length.toNat).map (isDit e.code)).reverse

end Sys2Proof.Machine
end

