-- ==== Sys2Proof/Machine/Morse.lean ====
section
/-! DEFINITION. The Morse Encoder (43_morse_encoder.md): SEND_CHAR, its micro-operations, and how KEYTRACE is read. -/

namespace Sys2Proof.Machine

/-- `DIT` (R167). -/
def dit (s : State) : State := (s.emitKey true Config.ditOn).emitKey false Config.elemGap

/-- `DAH` (R168). -/
def dah (s : State) : State := (s.emitKey true Config.dahOn).emitKey false Config.elemGap

/-- `LETTER_SILENCE` (R169). -/
def letterSilence (s : State) : State := s.emitKey false Config.letterSil

/-- `WORD_SILENCE` (R170). -/
def wordSilence (s : State) : State := s.emitKey false Config.wordSil

/-- Step 3 of R166: bit positions from `n - 1` down to 0, a set bit fires the dit (R171). -/
def sendElements (code : BitVec 5) : Nat → State → State
  | 0, s => s
  | i + 1, s => sendElements code i (if isDit code i then dit s else dah s)

/-- Steps 2 to 5 of R166 for a found entry. -/
def sendEntry (e : SymbolEntry) (s : State) : State :=
  if e.length = 0#3 then wordSilence s else letterSilence (sendElements e.code e.length.toNat s)

/-- Steps 1 to 5 of R166: a character not found leaves everything as it was (R172). -/
def sendFound (found : Option SymbolEntry) (s : State) : State :=
  match found with
  | none => s
  | some e => sendEntry e s

/-- `SEND_CHAR c` (R166): legal in either bracket state, cannot fail, no stall point (R173, R181). -/
def execSendChar (c : Byte) (s : State) : Host.Outcome State Fault Refusal :=
  guardBracket (.sendChar c) (fun s => .next ((sendFound (lookup c) s).complete 0x00#8 false)) s

/-! ### Reading KEYTRACE (R33, R174, R176, R177) -/

/-- The pin's level in each time-unit. -/
def waveform (segs : List Segment) : List Bool := segs.flatMap (fun g => List.replicate g.units g.level)

/-- Adjacent segments of equal level merged, their units added: the observable waveform (R33). -/
def mergeSegments : List Segment → List Segment
  | [] => []
  | g :: gs =>
    match mergeSegments gs with
    | [] => [g]
    | h :: hs => if g.level = h.level then Segment.mk g.level (g.units + h.units) :: hs else g :: h :: hs

/-- Total units of a list of segments. -/
def totalUnits (segs : List Segment) : Nat := (segs.map Segment.units).sum

/-- Units the pin is asserted. -/
def assertedUnits (segs : List Segment) : Nat := totalUnits (segs.filter Segment.level)

/-- Pulses: segments of level 1 (R176). -/
def pulseCount (segs : List Segment) : Nat := segs.countP Segment.level

/-- Units of silence at the end of a list of segments (R177). -/
def trailingSilence (segs : List Segment) : Nat := totalUnits (segs.reverse.takeWhile (fun g => !g.level))

/-- Dits of an entry. -/
def ditCount (e : SymbolEntry) : Nat := (patternOf e).countP id

/-- Dahs of an entry. -/
def dahCount (e : SymbolEntry) : Nat := (patternOf e).countP (fun d => !d)

/-- Units `SEND_CHAR` takes for an entry (R174): `2d + 4h + 3`, and 7 for the space. -/
def entryUnits (e : SymbolEntry) : Nat :=
  if e.length = 0#3 then Config.wordSil else 2 * ditCount e + 4 * dahCount e + 3

/-- Milliseconds of a number of units at the reference speed (R33, R178). -/
def milliseconds (units : Nat) : Nat := units * Config.unitMs

end Sys2Proof.Machine
end

