-- ==== Sys2Proof/Machine/Dispatch.lean ====
section
/-! DEFINITION. What an accepted command does: one arm per constructor of `Instr`. -/

namespace Sys2Proof.Machine

def exec (i : Instr) (s : State) : Host.Outcome State Fault Refusal :=
  match i with
  | .start => Sys2Proof.Machine.execStart s
  | .stop => Sys2Proof.Machine.execStop s
  | .writeByte b => Sys2Proof.Machine.execWriteByte b s
  | .readByte sendAck => Sys2Proof.Machine.execReadByte sendAck s
  | .sendChar c => Sys2Proof.Machine.execSendChar c s
  | .idle => Sys2Proof.Machine.execIdle s

end Sys2Proof.Machine
end

