-- ==== Sys2Proof/Machine/Message.lean ====
section
/-! DEFINITION. What the host makes of a reading: the telemetry message (R185, R186), its characters as commands (R184),
and the rest of the host's list once the reading is taken (R139, R267). -/

namespace Sys2Proof.Machine

/-- ASCII bytes (R84). -/
def ascii (cs : List Char) : List Byte := cs.map (fun c => BitVec.ofNat 8 c.toNat)

/-- The message up to and including `t` (R185). -/
def messageHead : List Byte :=
  ascii ['c', 'q', ' ', 'c', 'q', ' ', 'c', 'q', ' ', 'd', 'e', ' ', 'o', 'm', '/', 'a', 'b', '3', 'y', '/', 'b', ' '] ++
  ascii ['b', 'e', 'a', 'c', 'o', 'n', ' ', 'i', 'n', ' ', 'j', 'n', '9', '9', 'k', 'f', ' ', '3', '0', 'm', 'w', ' ', 't']

/-- The message after the digits (R185). -/
def messageTail : List Byte := ascii ['c', ' ', 'a', 'r']

/-- A decimal digit. -/
def digitByte (n : Nat) : Byte := BitVec.ofNat 8 (0x30 + n)

/-- Sign and two zero-padded digits of a reading with `|t| <= 99` (R186). -/
def readingText (t : Int) : List Byte :=
  [if t < 0 then 0x6E#8 else 0x70#8, digitByte (t.natAbs / 10), digitByte (t.natAbs % 10)]

/-- The telemetry message (R185); the text of a reading of three digits is open (U7). -/
def message (t : Int) : List Byte :=
  if t.natAbs ≤ 99 then messageHead ++ readingText t ++ messageTail else Config.wideMessage t

/-- `SEND_STRING s` (R184). -/
def sendString (s : List Byte) : List Instr := s.map .sendChar

/-- What the host sends for one reading (R267). -/
def transmission (t : Int) : List Instr := sendString (message t)

/-- A command list as things the host does. -/
def offers (cs : List Instr) : List HostAct := cs.map (fun i => .offer (encode i))

/-- The reading `t` is taken: the next `sendReading` of the host's list becomes the message for it. -/
def fillReading (t : Int) : List HostAct → List HostAct
  | [] => []
  | .sendReading :: acts => offers (transmission t) ++ acts
  | .offer w :: acts => .offer w :: fillReading t acts
  | .wait :: acts => .wait :: fillReading t acts
  | .takeReading :: acts => .takeReading :: fillReading t acts
  | .reset :: acts => .reset :: fillReading t acts

/-- What the host still does when it comes to take a reading: with the response it waits for, the byte of it is the
reading, sign-extended (R134); without one it goes on waiting (R42). -/
def afterReading (heard : Option Response) (acts : List HostAct) : List HostAct :=
  match heard with
  | some r => fillReading (sext8 r.data) acts
  | none => .takeReading :: acts

end Sys2Proof.Machine
end

