-- ==== Sys2Proof/Machine/Port.lean ====
section
/-! DEFINITION. The command port (R41, R42): acceptance, what happens when nothing is accepted, and how a word is offered. -/

namespace Sys2Proof.Machine

/-- A word is accepted (R42): the word check comes first (R243), and an illegal word faults before any effect (R241). -/
def acceptWord (w : CmdWord) (s : State) : Task :=
  match decode w with
  | some i => .run i s
  | none => .settle (s.takeFault fltIllegalCmd)

/-- Nothing is accepted in this step: a command in flight asks the target again (R118); otherwise nothing happens
(R245, last row; R261). -/
def proceed (s : State) : Task :=
  if s.busy then
    match s.held with
    | some i => .run i s
    | none => .stuck
  else .settle s

/-- What the command port does in a step (R42, R260, R268): `rst` wins over everything, an offered word is accepted only
when `cmd_ready` is 1 and otherwise stays offered, a delay of the host's passes. `heard` is the response of the step
before, which the host may take a reading from. -/
def portTask (heard : Option Response) (s : State) : Task :=
  match s.host with
  | [] => proceed s
  | .reset :: acts => .settle { s with host := acts }.hardReset
  | .wait :: acts => proceed { s with host := acts }
  | .takeReading :: acts => proceed { s with host := afterReading heard acts }
  | .sendReading :: _ => proceed s
  | .offer w :: acts => if s.cmdReady then acceptWord w { s with host := acts } else proceed s

/-- The host offers a word before everything else it still does. -/
def State.offerWord (w : CmdWord) (s : State) : State := { s with host := .offer w :: s.host }

end Sys2Proof.Machine
end

