-- ==== Sys2Proof/Machine/Step.lean ====
section
/-! DEFINITION. One step: the free values are drawn, the command port decides, and a command is performed (D1: a command
is one step). -/

namespace Sys2Proof.Machine

/-- One step of the block at the transaction level. -/
def step (s : State) : Host.Outcome State Fault Refusal :=
  match portTask s.rsp s.sample with
  | .settle t => .next t
  | .run i t => exec i t
  | .stuck => .fault .busyWithoutCommand

/-- The state in which the host offers the table word `w` next: the block fetches nothing, so a word reaches it only on
the command port (assumption log 6). A number with a bit above `cmd[10]` is no command word and is not offered. -/
def State.withFetchWord (s : State) (nbits w : Nat) : State :=
  let v := w % 2 ^ nbits
  if v < 2048 then s.offerWord (BitVec.ofNat 11 v) else s

end Sys2Proof.Machine
end

