-- ==== Sys2Proof/Machine/Wire.lean ====
section
/-! DEFINITION. The wire-level refinement of the bus commands (45_wire_level.md): general knowledge and not normative (G1,
assumption log 11). The meanings of `exec` do not use it; the clocked refinement (`Machine/Clock.lean`) does. -/

namespace Sys2Proof.Machine

/-- One line of a listing of 45_wire_level.md. -/
inductive WireLine where
  /-- `SDA_O <- 0`. -/
  | sdaLow
  /-- `SDA_O <- 1`. -/
  | sdaRelease
  /-- `SDA_O <- b[i]`: the top bit of `SHR` goes out and `SHR` shifts. -/
  | sdaShift
  /-- `SCL_O <- 1 ; wait_high(SCL)` (R207). -/
  | sclRaise
  /-- `SCL_O <- 1` with no wait (R206). -/
  | sclRelease
  /-- `SCL_O <- 0`: the end of a clock pulse, counted in `BITCNT` (in START too, assumption log 24). -/
  | sclLower
  /-- `n <- sda_i` or `d[i] <- sda_i`: the level of the data line shifts into `SHR`. -/
  | sample
  deriving DecidableEq, Repr

/-- Two levels or two drives, data line and clock line. -/
abbrev Levels := Bool × Bool

/-- A line's level: a wired-AND of the block's drive and everyone else's (R200). -/
def wiredAnd (block others : Bool) : Bool := block && others

/-- The levels of the two lines when the others drive them as `others` says (R200): what the block sees on `sda_i` and
`scl_i`. -/
def State.levels (others : Levels) (s : State) : Levels := (wiredAnd s.sdaO others.1, wiredAnd s.sclO others.2)

/-- Eight times the same lines, for the eight bits of a byte. -/
def eightBits (ls : List WireLine) : List WireLine := (List.replicate 8 ls).flatten

/-- The listing of a bus command (R201 to R206); `brk` tells a first start from a repeated one. -/
def wireListing (brk : Bool) : Instr → List WireLine
  | .start => if brk then [.sdaRelease, .sclRaise, .sdaLow, .sclLower] else [.sdaLow, .sclLower]
  | .stop => [.sdaLow, .sclRaise, .sdaRelease]
  | .writeByte _ => eightBits [.sdaShift, .sclRaise, .sclLower] ++ [.sdaRelease, .sclRaise, .sample, .sclLower]
  | .readByte a =>
      [.sdaRelease] ++ eightBits [.sclRaise, .sample, .sclLower] ++
        [if a then .sdaLow else .sdaRelease, .sclRaise, .sclLower, .sdaRelease]
  | .idle => [.sdaRelease, .sclRelease]
  | .sendChar _ => []

/-- One line of a listing, `sdaI` being the level of the data line. -/
def wireApply (sdaI : Bool) : WireLine → State → State
  | .sdaLow, s => { s with sdaO := false }
  | .sdaRelease, s => { s with sdaO := true }
  | .sdaShift, s =>
      { s with sdaO := s.inFlight.shr.getLsbD 7, inFlight := { s.inFlight with shr := s.inFlight.shr <<< 1 } }
  | .sclRaise, s => { s with sclO := true }
  | .sclRelease, s => { s with sclO := true }
  | .sclLower, s => { s with sclO := false, inFlight := { s.inFlight with bitcnt := s.inFlight.bitcnt + 1#4 } }
  | .sample, s =>
      { s with inFlight := { s.inFlight with shr := (s.inFlight.shr <<< 1) ||| BitVec.setWidth 8 (BitVec.ofBool sdaI) } }

/-- Acceptance of a command (R26, R34): `BUSY` is 1, `ARG` and `SHR` hold the argument, no clock pulse is done; the rest
of the in-flight registers is any value. That a command with no use for it also loads `SHR` (all but WRITE_BYTE) or
`BITCNT` (all but WRITE_BYTE and READ_BYTE) is the model's choice, R34 being silent there (DESIGN CHOICE, assumption
log 24). -/
def State.load (i : Instr) (s : State) : State :=
  { s with busy := true, inFlight := { s.draw.dead with arg := argOf i, shr := argOf i, bitcnt := 0#4 } }

/-- The effect of a bus command whose listing has run: the acknowledge bit and the byte read stand in `SHR`. -/
def finishBus (i : Instr) (s : State) : State :=
  match i with
  | .start => finishStart s
  | .stop => finishStop s
  | .writeByte b => finishWrite b (s.inFlight.shr.getLsbD 0) s
  | .readByte a => finishRead a s.inFlight.shr s
  | .idle => finishIdle s
  | .sendChar _ => s

/-- The target's drive of both lines at a line of a listing: its drive of the data line, released when the list ends, and
the clock line released. A run of a listing is one in which every `wait_high` has succeeded; the wait itself is in
`Machine/Clock.lean`. -/
def driveAt (tgt : List Bool) : Levels := (tgt.headD true, true)

/-- A listing run line by line. `tgt` is the target's drive of the data line at each line. -/
def runWire : List WireLine → List Bool → State → State
  | [], _, s => s
  | l :: ls, tgt, s => runWire ls tgt.tail (wireApply (s.levels (driveAt tgt)).1 l s)

/-- The levels after each line of a listing. -/
def wireLevels : List WireLine → List Bool → State → List Levels
  | [], _, _ => []
  | l :: ls, tgt, s =>
    let s' := wireApply (s.levels (driveAt tgt)).1 l s
    s'.levels (driveAt tgt) :: wireLevels ls tgt.tail s'

/-- A target that answers a written byte by `n`: it drives the data line at the acknowledge pulse only (R204). -/
def drivesAck (n : Bool) : List Bool := List.replicate 24 true ++ [n, n, n, n]

/-- Bit `k` of a byte in sending order, most significant first; the line is released after the eighth (R208). -/
def sentBit (d : Byte) (k : Nat) : Bool := if k < 8 then d.getLsbD (7 - k) else true

/-- A target that supplies byte `d`, most significant bit first, changing the data line when the clock line has gone low,
and releases the line at the ninth pulse (R205, R208). -/
def drivesByte (d : Byte) : List Bool :=
  sentBit d 0 :: ((List.range 8).map (fun k => [sentBit d k, sentBit d k, sentBit d (k + 1)])).flatten

/-- The target's drive during a command that it answers as the draw says. -/
def targetDrive (d : Draw) : Instr → List Bool
  | .writeByte _ => drivesAck d.nack
  | .readByte _ => drivesByte d.data
  | _ => []

/-- The listing of a bus command run with a target that answers by the draw `d`, once its waits are over: the lines as
the listing leaves them, before the command's effect. -/
def wireRun (i : Instr) (d : Draw) (s : State) : State :=
  runWire (wireListing s.brk i) (targetDrive d i) ((s.withDraw d).load i)

/-- A bus command at the wire level with a target that answers by the draw `d`, once its waits are over. -/
def wireCommand (i : Instr) (d : Draw) (s : State) : State := finishBus i (wireRun i d s)

/-- The levels that command shows on the bus. -/
def commandLevels (i : Instr) (d : Draw) (s : State) : List Levels :=
  wireLevels (wireListing s.brk i) (targetDrive d i) ((s.withDraw d).load i)

/-! ### A bus monitor (R208, R210) -/

/-- What a monitor sees on the two lines (R208), before it tells a repeated start from a first one and a byte read from a
byte written. -/
inductive WireEvent where
  /-- The data line falls while the clock line is high. -/
  | startCond
  /-- The data line rises while the clock line is high. -/
  | stopCond
  /-- Eight data bits and the level at the ninth clock pulse. -/
  | byte (b : Byte) (ninth : Bool)
  deriving DecidableEq, Repr

/-- The monitor's own memory: the levels before, the data bits since the last condition or byte, what it has seen. -/
structure Monitor where
  before : Levels
  bits : List Bool
  seen : List WireEvent
  deriving DecidableEq, Repr

/-- The byte of eight bits, most significant first. -/
def byteOfBits (bits : List Bool) : Byte := bits.foldl (fun b x => (b <<< 1) ||| BitVec.setWidth 8 (BitVec.ofBool x)) 0#8

/-- One observation of the two lines (R208). A data bit is taken when the clock line goes high. -/
def Monitor.observe (m : Monitor) (now : Levels) : Monitor :=
  if m.before.2 && now.2 then
    if m.before.1 && !now.1 then { before := now, bits := [], seen := m.seen ++ [.startCond] }
    else if !m.before.1 && now.1 then { before := now, bits := [], seen := m.seen ++ [.stopCond] }
    else { m with before := now }
  else if !m.before.2 && now.2 then
    if m.bits.length = 8 then
      { before := now, bits := [], seen := m.seen ++ [.byte (byteOfBits m.bits) now.1] }
    else { m with before := now, bits := m.bits ++ [now.1] }
  else { m with before := now }

/-- A monitor watching a list of observations. -/
def Monitor.watch (m : Monitor) (ls : List Levels) : Monitor := ls.foldl Monitor.observe m

/-- What a monitor sees of a bus event (R210): `I` shows nothing, an acknowledge is a low ninth level. -/
def wireEventOf : BusEvent → List WireEvent
  | .start => [.startCond]
  | .repStart => [.startCond]
  | .stop => [.stopCond]
  | .write b n => [.byte b n]
  | .read d a => [.byte d (!a)]
  | .idle => []

/-- What a monitor makes of what it sees (R210): a start inside a bracket is a repeated one, and the address byte after a
start, which is written, tells by its bit 0 whether the bytes after it are written or read (R52, R75; assumption log
11). -/
def decodeWireEvent : BusPhase → WireEvent → BusEvent × BusPhase
  | .closed, .startCond => (.start, .address)
  | .address, .startCond => (.repStart, .address)
  | .writing, .startCond => (.repStart, .address)
  | .reading, .startCond => (.repStart, .address)
  | _, .stopCond => (.stop, .closed)
  | .closed, .byte b n => (.write b n, .closed)
  | .address, .byte b n => (.write b n, .ofAddress b)
  | .writing, .byte b n => (.write b n, .writing)
  | .reading, .byte b n => (.read b (!n), .reading)

/-- The bus events a monitor decodes from a phase on. -/
def decodeWireEvents : BusPhase → List WireEvent → List BusEvent
  | _, [] => []
  | p, e :: es => (decodeWireEvent p e).1 :: decodeWireEvents (decodeWireEvent p e).2 es

/-- Bus commands one after the other at the wire level, each with the target's answer to it, and a monitor watching. -/
def runWireAll : List (Instr × Draw) → State × Monitor → State × Monitor
  | [], p => p
  | (i, d) :: cs, p => runWireAll cs (wireCommand i d p.1, p.2.watch (commandLevels i d p.1))

end Sys2Proof.Machine
end

