-- ==== Sys2Proof/Machine/Clock.lean ====
section
/-! DEFINITION. The clocked refinement: the block at each rising edge of `clk` (R41, R42, R182, R207, R209, R260), with the
ports as inputs. `step` is the normative level (D1); this is what happens inside one command. Where the spec gives no
cycle count the choice is the model's own (assumption log 12). New free values are drawn at the edge a command is accepted
and at the edge it completes, so that the in-flight registers are any value at both (U10; assumption logs 3 and 4). -/

namespace Sys2Proof.Machine

/-- The input ports at one rising edge (R41). -/
structure Pins where
  rst : Bool
  cmdValid : Bool
  cmd : CmdWord
  sdaI : Bool
  sclI : Bool
  deriving DecidableEq, Repr

/-- Where the encoder is inside `SEND_CHAR`. -/
inductive KeyPhase where
  /-- The table is being searched. -/
  | find
  /-- The asserted segment of an element. -/
  | mark
  /-- The gap after an element. -/
  | gap
  /-- The letter silence. -/
  | letter
  /-- The word silence. -/
  | word
  deriving DecidableEq, Repr

/-- Where the operation in flight is: the model's own sequencer. -/
inductive Seq where
  /-- No command in flight. -/
  | idle
  /-- A bus command: the lines of its listing still to do, the cycles before the next one, and whether the block is
  waiting for the clock line to rise (R207). -/
  | bus (i : Instr) (todo : List WireLine) (gap : Nat) (waiting : Bool)
  /-- A `SEND_CHAR`. -/
  | key (phase : KeyPhase)
  deriving DecidableEq, Repr

/-- The block between two rising edges. -/
structure Clocked where
  st : State
  seq : Seq
  deriving DecidableEq, Repr

/-- A segment begins: `emit_key`, and the unit timer is loaded (R182). -/
def startSegment (u : Nat) (level : Bool) (units : Nat) (s : State) : State :=
  let s' := s.emitKey level units
  { s' with inFlight := { s'.inFlight with ucnt := BitVec.ofNat 3 units, cyc := u - 1 } }

/-- The asserted segment of the element at `IDX` begins (R167, R168, R171). -/
def startMark (u : Nat) (s : State) : State :=
  startSegment u true (if isDit s.inFlight.entCode s.inFlight.idx.toNat then Config.ditOn else Config.dahOn) s

/-- The character is over: the command completes, and the registers in flight become any value (U10). -/
def keyDone (s : State) : Clocked := { st := s.redraw.complete 0x00#8 false, seq := .idle }

/-- `IDX <- v`. -/
def setIdx (v : BitVec 3) (s : State) : State := { s with inFlight := { s.inFlight with idx := v } }

/-- `ENT_CODE` and `ENT_LEN` take the entry found (R35). -/
def loadEntry (e : SymbolEntry) (s : State) : State :=
  { s with inFlight := { s.inFlight with entCode := e.code, entLen := e.length } }

/-- The search is over: nothing, the word silence, or the first element (R166). -/
def keyFound (u : Nat) (found : Option SymbolEntry) (s : State) : Clocked :=
  match found with
  | none => keyDone s
  | some e =>
    if e.length = 0#3 then { st := startSegment u false Config.wordSil (loadEntry e s), seq := .key .word }
    else { st := startMark u (setIdx (e.length - 1#3) (loadEntry e s)), seq := .key .mark }

/-- A segment is over: the next one begins in the same cycle (R182), or the command completes. -/
def nextSegment (u : Nat) (phase : KeyPhase) (s : State) : Clocked :=
  match phase with
  | .find => keyFound u (lookup s.inFlight.arg) s
  | .mark => { st := startSegment u false Config.elemGap s, seq := .key .gap }
  | .gap =>
    if s.inFlight.idx = 0#3 then { st := startSegment u false Config.letterSil s, seq := .key .letter }
    else { st := startMark u (setIdx (s.inFlight.idx - 1#3) s), seq := .key .mark }
  | .letter => keyDone s
  | .word => keyDone s

/-- One edge of `SEND_CHAR`: `CYC` counts cycles of the unit, `UCNT` units of the segment (R35, R182). -/
def keyEdge (u : Nat) (phase : KeyPhase) (s : State) : Clocked :=
  if phase = .find then nextSegment u phase s
  else if s.inFlight.cyc ≠ 0 then
    { st := { s with inFlight := { s.inFlight with cyc := s.inFlight.cyc - 1 } }, seq := .key phase }
  else if 1 < s.inFlight.ucnt.toNat then
    { st := { s with inFlight := { s.inFlight with ucnt := s.inFlight.ucnt - 1#3, cyc := u - 1 } }, seq := .key phase }
  else nextSegment u phase s

/-- The next line of a listing, or the command's completion, at which new free values are drawn. After a line the next
one is `BUS_HALF_CYCLES` edges away (R209). -/
def busLine (h : Nat) (p : Pins) (i : Instr) (todo : List WireLine) (s : State) : Clocked :=
  match todo with
  | [] => { st := finishBus i s.redraw, seq := .idle }
  | l :: ls => { st := wireApply p.sdaI l s, seq := .bus i ls (h - 1) (decide (l = .sclRaise)) }

/-- One edge of a bus command: wait while the clock line is low (R207), let `BUS_HALF_CYCLES` pass (R209), do the next line
of the listing. An edge that finds the clock line high is the first of the gap, so a clock line that rises at once costs
no edge of its own. -/
def busEdge (h : Nat) (p : Pins) (i : Instr) (todo : List WireLine) (gap : Nat) (waiting : Bool) (s : State) : Clocked :=
  if waiting && !p.sclI then { st := s, seq := .bus i todo gap true }
  else if gap ≠ 0 then { st := s, seq := .bus i todo (gap - 1) false }
  else busLine h p i todo s

/-- The operation a command begins. -/
def startSeq (brk : Bool) (i : Instr) : Seq :=
  match i with
  | .sendChar _ => .key .find
  | i => .bus i (wireListing brk i) 0 false

/-- A command word is accepted (R42): the word check, then the bracket check (R243), then `BUSY` (R26). -/
def acceptEdge (w : CmdWord) (s : State) : Clocked :=
  match decode w with
  | none => { st := s.takeFault fltIllegalCmd, seq := .idle }
  | some i =>
    if bracketLegal i s.brk then { st := s.redraw.load i, seq := startSeq s.brk i }
    else { st := s.takeFault fltBusProtocol, seq := .idle }

/-- `rsp_valid` is high for one cycle (R41). -/
def State.dropResponse (s : State) : State := { s with rsp := none }

/-- One rising edge of `clk`, for given `UNIT_CYCLES` and `BUS_HALF_CYCLES`. `rst` is synchronous and wins (R260). -/
def edgeWith (u h : Nat) (p : Pins) (c : Clocked) : Clocked :=
  let s := c.st.dropResponse
  if p.rst then { st := s.hardReset, seq := .idle }
  else
    match c.seq with
    | .idle => if p.cmdValid && s.cmdReady then acceptEdge p.cmd s else { st := s, seq := .idle }
    | .bus i todo gap waiting => busEdge h p i todo gap waiting s
    | .key phase => keyEdge u phase s

/-- One rising edge of `clk`. -/
def edge (p : Pins) (c : Clocked) : Clocked := edgeWith Config.unitCycles Config.busHalfCycles p c

/-- `n` edges with input ports that may depend on what the block shows. -/
def edgesWith (u h : Nat) (pins : Clocked → Pins) : Nat → Clocked → Clocked
  | 0, c => c
  | n + 1, c => edgesWith u h pins n (edgeWith u h (pins c) c)

/-- The level of `KEY` in each of the `n` cycles after the next `n` edges. -/
def keyLevels (u h : Nat) (pins : Clocked → Pins) : Nat → Clocked → List Bool
  | 0, _ => []
  | n + 1, c =>
    let c' := edgeWith u h (pins c) c
    c'.st.key :: keyLevels u h pins n c'

/-- The input ports of a block on a bus: the line levels are the wired-AND of its own drive and the others' (R200). -/
def busPins (rst cmdValid : Bool) (cmd : CmdWord) (others : Levels) (c : Clocked) : Pins :=
  { rst := rst, cmdValid := cmdValid, cmd := cmd, sdaI := (c.st.levels others).1, sclI := (c.st.levels others).2 }

/-- The host offers one command word and nobody else drives a line. -/
def offerPins (w : CmdWord) (c : Clocked) : Pins := busPins false true w (true, true) c

/-- The host offers nothing, and the others drive the lines as `others` says. -/
def quietPins (others : Levels) (c : Clocked) : Pins := busPins false false 0#11 others c

/-- The target's drive of the data line at the wire level, told by `BITCNT`: a written byte is answered at the ninth
pulse, a byte read is driven most significant bit first (R204, R205, R208). -/
def clockedData (d : Draw) (c : Clocked) : Bool :=
  match c.seq with
  | .bus (.writeByte _) _ _ _ => if c.st.inFlight.bitcnt = 8#4 then d.nack else true
  | .bus (.readByte _) _ _ _ => sentBit d.data c.st.inFlight.bitcnt.toNat
  | _ => true

/-- The target's drive of both lines: a target that holds the bus keeps the clock line low (R118, R207). -/
def clockedDrive (d : Draw) (c : Clocked) : Levels := (clockedData d c, !d.hold)

/-- The input ports while a target that answers by the draw `d` lets a command run or holds it up. -/
def answerPins (d : Draw) (c : Clocked) : Pins := quietPins (clockedDrive d c) c

/-- A command offered at one edge and then `n` edges without another. -/
def runCommand (u h : Nat) (i : Instr) (d : Draw) (n : Nat) (c : Clocked) : Clocked :=
  edgesWith u h (answerPins d) n (edgeWith u h (offerPins (encode i) c) c)

end Sys2Proof.Machine
end

