-- ==== Sys2Proof/Machine/HostSide.lean ====
section
/-! DEFINITION. The host's side of the interface: pseudo-instructions (R83, R131 to R133), the reading (R134), the host's
program (R266, R267), command lists run with given answers, and the mock sensor (R65). -/

namespace Sys2Proof.Machine

/-! ### Pseudo-instructions -/

/-- `CONFIGURE m` (R131). -/
def configure (m : Byte) : List Instr :=
  [.start, .writeByte Config.addrW, .writeByte Config.cmdAccessConfig, .writeByte m, .stop]

/-- `INITIALIZE` (R132; 90_conflicts.md C4). -/
def initializeSensor : List Instr :=
  [.idle, .start, .writeByte Config.addrW, .writeByte Config.cmdStartConvert, .stop] ++ configure Config.initMode

/-- `READ_TEMP` (R133). -/
def readTemp : List Instr :=
  [.start, .writeByte Config.addrW, .writeByte Config.cmdReadTemp, .start, .writeByte Config.addrR, .readByte true,
   .readByte false, .stop]

/-- What `READ_TEMP` returns from its eight responses (R133, R134): `sext_8` of the first byte read, the sixth response. -/
def readTempValue (rs : List Response) : Option Int := rs[5]?.map (fun r => sext8 r.data)

/-! ### The host's program (R267) -/

/-- One cycle of the host: `t <- READ_TEMP`, the message for `t`, the delay. The reading is the byte of the first read's
response, the sixth (R133). -/
def hostCycle : List HostAct :=
  offers (readTemp.take 6) ++ [.takeReading] ++ offers (readTemp.drop 6) ++ [.sendReading, .wait]

/-- The host's program for `n` cycles: `INITIALIZE` once, at startup, then the cycles. -/
def hostProgram (n : Nat) : List HostAct := offers initializeSensor ++ (List.replicate n hostCycle).flatten

/-! ### Command lists run with given answers of the target -/

/-- A command accepted with the target answering by `d`. -/
def issue (d : Draw) (i : Instr) (s : State) : Host.Outcome State Fault Refusal := exec i (s.withDraw d)

/-- The state and the response of a command that gets one. -/
def answered (o : Host.Outcome State Fault Refusal) : Option (State × Response) :=
  match o with
  | .next s => s.rsp.map (fun r => (s, r))
  | .fault _ => none
  | .refused _ => none

/-- A command list issued in order, each command with the target's answer to it. `none` if a command gets no response:
the host then waits for ever (R42, R118). -/
def issueAll : List (Instr × Draw) → State → Option (State × List Response)
  | [], s => some (s, [])
  | (i, d) :: cs, s =>
    match answered (issue d i s) with
    | none => none
    | some (s', r) => (issueAll cs s').map (fun p => (p.1, r :: p.2))

/-- A command list with the target's answers: command `k` is answered by `ds k`. -/
def withAnswers (ds : Nat → Draw) : List Instr → List (Instr × Draw)
  | [] => []
  | i :: is => (i, ds 0) :: withAnswers (fun k => ds (k + 1)) is

/-- One cycle of the host with given answers (R267): the reading that READ_TEMP returns is the one the message is made
of (R139), and nothing of it is kept. -/
def telemetryCycle (ds : Nat → Draw) (s : State) : Option (State × Int) :=
  (issueAll (withAnswers ds readTemp) s).bind fun p =>
    (readTempValue p.2).bind fun t =>
      (issueAll (withAnswers (fun k => ds (k + readTemp.length)) (transmission t)) p.1).map fun q => (q.1, t)

/-- Cycles of the host, the `k`-th answered by `ds k`, with the readings. -/
def telemetryCycles : Nat → (Nat → Nat → Draw) → State → Option (State × List Int)
  | 0, _, s => some (s, [])
  | n + 1, ds, s =>
    (telemetryCycle (ds 0) s).bind fun p =>
      (telemetryCycles n (fun k => ds (k + 1)) p.1).map fun q => (q.1, p.2 :: q.2)

/-- The host from startup (R266, R267): INITIALIZE, answered by `ds 0`, then `n` cycles. -/
def beacon (n : Nat) (ds : Nat → Nat → Draw) (s : State) : Option (State × List Int) :=
  (issueAll (withAnswers (ds 0) initializeSensor) s).bind fun p => telemetryCycles n (fun k => ds (k + 1)) p.1

/-! ### The mock sensor (R65) -/

/-- What the mock sensor remembers: its pointer, whether the next written byte is one, and the reads since `W(0x91, 0)`. -/
structure MockState where
  pointer : Option Byte
  writing : Bool
  reads : Option Nat
  deriving DecidableEq, Repr

/-- The mock sensor hears one bus event. Where R65 is silent the model chooses (assumption log 19): a written 0x90 that is
not itself a pointer byte begins a pointer write wherever it stands in a bracket, and ends the read-out that a 0x91
began; so does every start and stop. -/
def MockState.hear (m : MockState) : BusEvent → MockState
  | .start => { m with writing := false, reads := none }
  | .repStart => { m with writing := false, reads := none }
  | .stop => { m with writing := false, reads := none }
  | .write b _ =>
    if m.writing then { m with pointer := some b }
    else if b = Config.addrW then { m with writing := true, reads := none }
    else if b = Config.addrR then { m with reads := some 0 }
    else m
  | .read _ _ => { m with reads := m.reads.map (· + 1) }
  | .idle => m

/-- The mock sensor after a bus trace. -/
def mockAfter (trace : List BusEvent) : MockState :=
  trace.foldl MockState.hear { pointer := none, writing := false, reads := none }

/-- The byte `MockSensor(th, tl)` supplies next: `th` then `tl` after pointer 0xAA, else 0xFF. -/
def mockByte (th tl : Byte) (m : MockState) : Byte :=
  if m.pointer = some Config.cmdReadTemp then
    match m.reads with
    | some 0 => th
    | some 1 => tl
    | _ => 0xFF#8
  else 0xFF#8

/-- The answers of `MockSensor(th, tl)`: it acknowledges every byte and never stalls. The other free values of the step
stay as `d` has them. -/
def mockDraw (th tl : Byte) (trace : List BusEvent) (d : Draw) : Draw :=
  { d with hold := false, nack := false, data := mockByte th tl (mockAfter trace) }

/-- A command list issued against `MockSensor(th, tl)`, with the responses. -/
def issueMock (th tl : Byte) : List Instr → State → Option (State × List Response)
  | [], s => some (s, [])
  | i :: is, s =>
    match answered (issue (mockDraw th tl s.busTrace s.draw) i s) with
    | none => none
    | some (s', r) => (issueMock th tl is s').map (fun p => (p.1, r :: p.2))

end Sys2Proof.Machine
end

