-- ==== Sys2Proof/Safety.lean ====
section
/-! DEFINITION. The terms claims are stated in: the end state (D25), the end of a run (R269), and the invariants of the
block (R27, R116, R175). -/

namespace Sys2Proof.Machine

/-- What the end state includes (D25). -/
structure EndState where
  brk : Bool
  nack : Bool
  rxb : Byte
  key : Bool
  flt : BitVec 2
  busy : Bool
  sdaO : Bool
  sclO : Bool
  busTrace : List BusEvent
  keyTrace : List Segment
  time : Nat
  deriving DecidableEq, Repr

/-- The end state of a state (D25). -/
def State.endState (s : State) : EndState :=
  { brk := s.brk, nack := s.nack, rxb := s.rxb, key := s.key, flt := s.flt, busy := s.busy, sdaO := s.sdaO,
    sclO := s.sclO, busTrace := s.busTrace, keyTrace := s.keyTrace, time := s.time }

/-- The end of a run (R269): the host has no more to do, no command is in flight, no fault. -/
def State.runOver (s : State) : Bool := s.host.isEmpty && !s.busy && decide (s.flt = 0#2)

/-- The bracket state after one more event, `none` if the event cannot stand there (R116). -/
def eventAfter (b : Option Bool) (e : BusEvent) : Option Bool :=
  match b, e with
  | some false, .start => some true
  | some true, .repStart => some true
  | some true, .stop => some false
  | some true, .write _ _ => some true
  | some true, .read _ _ => some true
  | some false, .idle => some false
  | _, _ => none

/-- The bracket state a bus trace leaves, `none` if the trace breaks R116. -/
def traceBracket (tr : List BusEvent) : Option Bool := tr.foldl eventAfter (some false)

/-- No two pulses are adjacent, and the last segment is no pulse (R175, R176). -/
def pulsesApart : List Segment → Bool
  | [] => true
  | [g] => !g.level
  | g :: h :: gs => !(g.level && h.level) && pulsesApart (h :: gs)

/-- The commands that have a stall point while a bracket is open (R118). -/
def mayStall : Instr → Bool
  | .start => true
  | .stop => true
  | .writeByte _ => true
  | .readByte _ => true
  | .sendChar _ => false
  | .idle => false

/-- `FLT` never holds 3 (R25). -/
def State.fltLegal (s : State) : Prop := s.flt ≠ 3#2

/-- `KEY` is 0 whenever no `SEND_CHAR` is in flight; at this level none ever is between steps (R175). -/
def State.keyUp (s : State) : Prop := s.key = false

/-- Outside a bracket both lines are released (R27). -/
def State.linesIdle (s : State) : Prop := s.brk = false → s.sdaO = true ∧ s.sclO = true

/-- `BUSY` is 1 exactly when a bus command waits for the target; it then waits inside a bracket, with no fault (R118,
R233, R244). -/
def State.busyMeansHeld (s : State) : Prop :=
  (s.busy = true ↔ s.held.isSome = true) ∧
  ∀ i, s.held = some i → mayStall i = true ∧ s.brk = true ∧ s.flt = 0#2

/-- BUSTRACE keeps the form of R116 and `BRK` is its bracket state. -/
def State.traceMatchesBrk (s : State) : Prop := traceBracket s.busTrace = some s.brk

/-- KEYTRACE holds segments of at least one unit, `T` is their total, pulses are apart (R33, R175, R176). -/
def State.keyTraceSound (s : State) : Prop :=
  (∀ g ∈ s.keyTrace, 0 < g.units) ∧ s.time = totalUnits s.keyTrace ∧ pulsesApart s.keyTrace = true

/-- The invariant of the block between steps. -/
structure State.Inv (s : State) : Prop where
  fltLegal : s.fltLegal
  keyUp : s.keyUp
  linesIdle : s.linesIdle
  busyMeansHeld : s.busyMeansHeld
  traceMatchesBrk : s.traceMatchesBrk
  keyTraceSound : s.keyTraceSound

/-! ### Vocabulary of the statements -/

/-- The words R74 lists as illegal. -/
def illegalWord (w : CmdWord) : Prop :=
  6 ≤ (opField w).toNat ∨
  ((opField w).toNat = 0 ∧ argField w ≠ 0#8) ∨ ((opField w).toNat = 1 ∧ argField w ≠ 0#8) ∨
  ((opField w).toNat = 5 ∧ argField w ≠ 0#8) ∨
  ((opField w).toNat = 3 ∧ (argField w).extractLsb' 1 7 ≠ 0#7)

/-- The next thing the host does is not a reset. -/
def State.noResetNext (s : State) : Prop := ∀ acts, s.host ≠ .reset :: acts

/-- The registers the encoder owns are as before (R37). -/
def mkeSame (s t : State) : Prop := t.key = s.key ∧ t.keyTrace = s.keyTrace ∧ t.time = s.time

/-- The registers the bus primitive owns are as before (R37). -/
def btpSame (s t : State) : Prop :=
  t.brk = s.brk ∧ t.nack = s.nack ∧ t.rxb = s.rxb ∧ t.sdaO = s.sdaO ∧ t.sclO = s.sclO ∧ t.busTrace = s.busTrace

/-- The model's own inputs are as before: what the host still does and the draws. -/
def inputsSame (s t : State) : Prop := t.host = s.host ∧ t.draw = s.draw ∧ t.draws = s.draws

/-- The command port is free again and this response was given (R26, R42). -/
def respondsWith (data : Byte) (nack : Bool) (t : State) : Prop :=
  t.busy = false ∧ t.held = none ∧ t.rsp = some (Response.mk data nack)

/-- A fault was taken: `FLT` is `code`, nothing else has changed, there is no response (R240). -/
def faultTaken (code : BitVec 2) (s t : State) : Prop :=
  t.flt = code ∧ t.rsp = none ∧ btpSame s t ∧ mkeSame s t ∧ t.busy = s.busy ∧ t.inFlight = s.inFlight ∧
  t.held = s.held ∧ t.draw = s.draw ∧ t.draws = s.draws

/-- A word that is no command, and raises ILLEGAL_CMD when a ready block is offered it (R74, R241). -/
def raisesIllegal (w : CmdWord) : Prop :=
  decode w = none ∧
  ∀ (s : State) (acts : List HostAct), s.host = .offer w :: acts → s.cmdReady = true →
    ∃ t, step s = .next t ∧ faultTaken 1#2 s.sample t

/-- The segments of one element (R167, R168). -/
def elementSegments (isDit : Bool) : List Segment :=
  if isDit then [Segment.mk true 1, Segment.mk false 1] else [Segment.mk true 3, Segment.mk false 1]

/-- The segments an entry adds to KEYTRACE (R166): the elements in sending order and a letter silence, or a word silence. -/
def entrySegments (e : SymbolEntry) : List Segment :=
  if e.length = 0#3 then [Segment.mk false 7]
  else (patternOf e).flatMap elementSegments ++ [Segment.mk false 3]

/-- The segments a character adds: none if it is not found (R172). -/
def charSegments (c : Byte) : List Segment :=
  match lookup c with
  | none => []
  | some e => entrySegments e

/-- The number of elements of a character: 0 if it is not found (R176). -/
def charLength (c : Byte) : Nat :=
  match lookup c with
  | none => 0
  | some e => e.length.toNat

/-- The units a character takes (R174): 0 if it is not found. -/
def charUnits (c : Byte) : Nat :=
  match lookup c with
  | none => 0
  | some e => entryUnits e

/-- The five commands of the bus primitive (R100). -/
def isBusCommand : Instr → Bool
  | .sendChar _ => false
  | _ => true

/-- Between two bus commands (R211): the monitor has no half byte; the clock line is low inside a bracket and both lines
are high outside. -/
def wireRest (s : State) (m : Monitor) : Prop :=
  m.bits = [] ∧
  (if s.brk then m.before.2 = false ∧ s.sclO = false else m.before = (true, true) ∧ s.sdaO = true ∧ s.sclO = true)

/-- `NACK` and `RXB` forgotten, for claims that nothing reads them (R22, R23). -/
def forgetResults (o : Host.Outcome State Fault Refusal) : Host.Outcome State Fault Refusal :=
  match o with
  | .next t => .next { t with nack := false, rxb := 0#8 }
  | .fault r => .fault r
  | .refused r => .refused r

/-- What a step shows of the block: the end state and the response, or that there is none. -/
def blockView (o : Host.Outcome State Fault Refusal) : Option (EndState × Option Response) :=
  match o with
  | .next t => some (t.endState, t.rsp)
  | .fault _ => none
  | .refused _ => none

/-- The block can take a command and no operation is in flight, at the clocked level. -/
def Clocked.atRest (c : Clocked) : Prop := c.seq = .idle ∧ c.st.cmdReady = true

end Sys2Proof.Machine
end

