-- ==== Sys2Proof/Certificates/Slice0/Obligations.lean ====
section
/-! DEFINITION. The statements for the provers, one per rule or group of rules of spec/. -/

open Sys2Proof Sys2Proof.Machine

/-! ### Encoding (30_encoding.md) -/

/-- Decode and encode agree in both directions, for every command and every word (R70, R71, R73). -/
def Obligations.DecodeEncodeAgree : Prop :=
  (∀ i : Instr, decode (encode i) = some i) ∧ (∀ (w : CmdWord) (i : Instr), decode w = some i → encode i = w)

/-- R71: a word that decodes lies in the row of the command it decodes to, and in no other command's row. -/
def Obligations.DecodedWordSelectsItsRowOnly : Prop :=
  ∀ (w : CmdWord) (i j : Instr), decode w = some i →
    w &&& (tableRow i).2 = (tableRow i).1 ∧ (w &&& (tableRow j).2 = (tableRow j).1 → tableRow j = tableRow i)

/-- R74: the illegal words are the listed ones; one offered to a ready block raises ILLEGAL_CMD, and every other word
offered to a ready block is a command. -/
def Obligations.IllegalWordsFault : Prop :=
  ∀ w : CmdWord,
    (decode w = none ↔ illegalWord w) ∧
    (illegalWord w → ∀ (s : State) (acts : List HostAct), s.host = .offer w :: acts → s.cmdReady = true →
      ∃ t, step s = .next t ∧ faultTaken 1#2 s.sample t ∧ t.host = acts ∧ t.cmdReady = false)

/-- Words written out from the spec's encodings (R71; vectors Q1 to Q18 of 95_test_vectors.md). -/
def Obligations.SpecWordsDecodeRight : Prop :=
  decode 0x000#11 = some .start ∧ decode 0x100#11 = some .stop ∧ decode 0x290#11 = some (.writeByte 0x90#8) ∧
  decode 0x300#11 = some (.readByte false) ∧ decode 0x301#11 = some (.readByte true) ∧
  decode 0x465#11 = some (.sendChar 0x65#8) ∧ decode 0x500#11 = some .idle ∧
  decode 0x001#11 = none ∧ decode 0x180#11 = none ∧ decode 0x302#11 = none ∧ decode 0x501#11 = none ∧
  decode 0x600#11 = none ∧ decode 0x7FF#11 = none

/-- R77: packing an entry and unpacking a ROM word undo each other, and the fields stand where the rule puts them. -/
def Obligations.RomWordRoundTrip : Prop :=
  (∀ e : SymbolEntry, unpackEntry (packEntry e) = e) ∧ (∀ w : RomWord, packEntry (unpackEntry w) = w) ∧
  (∀ e : SymbolEntry,
    (packEntry e).toNat = e.character.toNat * 2 ^ 8 + e.length.toNat * 2 ^ 5 + e.code.toNat)

/-! ### The step, reset and faults (60_exceptions.md, 70_reset_and_hazards.md) -/

/-- R42: a word offered to a ready block is accepted, and a step is `exec` of the command it decodes to, at the state in
which the free values of the step are drawn, the response before is over and the word is no longer offered. -/
def Obligations.StepRunsTheDecodedCommand : Prop :=
  ∀ (s : State) (w : CmdWord) (acts : List HostAct) (i : Instr),
    s.host = .offer w :: acts → s.cmdReady = true → decode w = some i →
    step s = exec i { s.sample with host := acts }

/-- R39: the reset values the spec gives. -/
def Obligations.ResetLeavesSpecValues : Prop :=
  State.reset.endState =
    { brk := false, nack := false, rxb := 0x00#8, key := false, flt := 0#2, busy := false, sdaO := true, sclO := true,
      busTrace := [], keyTrace := [], time := 0 } ∧
  State.reset.cmdReady = true ∧ State.reset.rspValid = false

/-- R24, R26, R31 and R41: what the output ports show; `key_o` is `KEY` when `KEY_ACTIVE_LEVEL` is 1 and its complement
when it is 0. -/
def Obligations.PortsShowRegisters : Prop :=
  ∀ s : State, s.brkO = s.brk ∧ s.fltO = s.flt ∧ (s.cmdReady = true ↔ s.busy = false ∧ s.flt = 0#2) ∧
    (s.rspValid = true ↔ ∃ r, s.rsp = some r) ∧
    s.keyO = (if Config.keyActiveLevel = true then s.key else !s.key) ∧
    keyLevel true s.key = s.key ∧ keyLevel false s.key = !s.key

/-- R260: reset puts every register and trace back from any state, at both levels, abandons a command in flight without a
response, and the next command can be accepted. -/
def Obligations.ResetRestoresFromAnyState : Prop :=
  (∀ (s : State) (acts : List HostAct), s.host = .reset :: acts →
    ∃ t, step s = .next t ∧ t.endState = State.reset.endState ∧ t.rsp = none ∧ t.held = none ∧ t.host = acts ∧
      t.cmdReady = true) ∧
  (∀ (u h : Nat) (p : Pins) (c : Clocked), p.rst = true →
    (edgeWith u h p c).st.endState = State.reset.endState ∧ (edgeWith u h p c).st.rsp = none ∧
    (edgeWith u h p c).atRest)

/-- R25 and R244: `FLT` keeps the first code until a reset, whatever else happens, and never becomes 3. -/
def Obligations.FltIsStickyUntilReset : Prop :=
  ∀ s t : State, step s = .next t →
    (s.flt ≠ 0#2 → s.noResetNext → t.flt = s.flt) ∧ (s.flt = 0#2 → t.flt ≠ 3#2)

/-- R240, R244 and R261: a step in which nothing is accepted changes nothing. A faulted block accepts nothing: the end
state stays, there is no response, and an offered word stays offered (the model's choice, assumption log 14). A block with
no command in flight does nothing while no word is offered. -/
def Obligations.FaultedBlockAcceptsNothing : Prop :=
  (∀ s : State, s.flt ≠ 0#2 → s.busy = false → s.noResetNext →
    ∃ t, step s = .next t ∧ t.endState = s.endState ∧ t.rsp = none ∧
      (∀ w acts, s.host = .offer w :: acts → t.host = s.host)) ∧
  (∀ s : State, s.busy = false →
    (s.host = [] ∨ ∃ acts, s.host = .wait :: acts ∨ s.host = .takeReading :: acts ∨ s.host = .sendReading :: acts) →
    ∃ t, step s = .next t ∧ t.endState = s.endState ∧ t.rsp = none)

/-- R242: a legal command in the wrong bracket state takes BUS_PROTOCOL and has no effect. -/
def Obligations.BracketViolationsFault : Prop :=
  ∀ s : State, s.flt = 0#2 →
    (s.brk = false → ∀ i, i = .stop ∨ (∃ b, i = .writeByte b) ∨ (∃ a, i = .readByte a) →
      ∃ t, exec i s = .next t ∧ faultTaken 2#2 s t ∧ t.host = s.host ∧ t.cmdReady = false) ∧
    (s.brk = true → ∃ t, exec .idle s = .next t ∧ faultTaken 2#2 s t ∧ t.host = s.host ∧ t.cmdReady = false)

/-- R240: faults are sticky and precise in every state: a command that the bracket discipline forbids changes nothing but
`FLT`, and that only if it was 0. -/
def Obligations.ForbiddenCommandChangesOnlyFlt : Prop :=
  ∀ (i : Instr) (s : State), CommandList.bracketAfter i s.brk = none →
    ∃ t, exec i s = .next t ∧ faultTaken (if s.flt = 0#2 then 2#2 else s.flt) s t ∧ t.host = s.host

/-- A step from a state that meets the invariant always answers a next state. That it does so where the spec has no step is
the model's choice: with a stalled bus, which R233 and R245 class as stuck (assumption log 5), and with a word offered while
the block is busy or faulted, which R245 classes as no step (assumption log 14). The invariant rules out the one state in
which `step` stops, `BUSY` 1 with no command in flight (assumption log 8). -/
def Obligations.StepAnswersUnderInvariant : Prop :=
  ∀ s : State, s.Inv → ∃ t, step s = .next t

/-- R39, R56 and R41: a step reads neither the free values nor the in-flight registers of the state it starts from, and of
the old response only what the host takes as a reading; at the clocked level an operation in flight finds nothing of what
the in-flight registers held before it. -/
def Obligations.StepIgnoresOldDraw : Prop :=
  (∀ (s : State) (d : Draw), step { s with draw := d } = step s) ∧
  (∀ (s : State) (d : Draw) (r : Option Response), (∀ acts, s.host ≠ .takeReading :: acts) →
    step { s with draw := d, rsp := r } = step s) ∧
  (∀ (s : State) (d : Draw) (r : Option Response) (fl : InFlight),
    blockView (step { s with draw := d, rsp := r, inFlight := fl }) = blockView (step s)) ∧
  (∀ (u h : Nat) (p : Pins) (s : State) (fl : InFlight),
    (edgeWith u h p ⟨{ s with inFlight := fl }, .idle⟩).seq = (edgeWith u h p ⟨s, .idle⟩).seq ∧
    (edgeWith u h p ⟨{ s with inFlight := fl }, .idle⟩).st.endState = (edgeWith u h p ⟨s, .idle⟩).st.endState ∧
    (edgeWith u h p ⟨{ s with inFlight := fl }, .idle⟩).st.rsp = (edgeWith u h p ⟨s, .idle⟩).st.rsp ∧
    ((edgeWith u h p ⟨s, .idle⟩).seq ≠ .idle →
      edgeWith u h p ⟨{ s with inFlight := fl }, .idle⟩ = edgeWith u h p ⟨s, .idle⟩))

/-! ### Invariants -/

/-- The invariant holds right after reset. -/
def Obligations.ResetMeetsInvariant : Prop := State.reset.Inv

/-- Every step keeps the invariant: FLT is never 3 (R25), KEY is up (R175), the lines are released outside a bracket
(R27), BUSY means a held command (R118), BUSTRACE keeps the form of R116, KEYTRACE and T agree (R33, R176). -/
def Obligations.StepKeepsInvariant : Prop :=
  ∀ s t : State, s.Inv → step s = .next t → t.Inv

/-! ### The bus commands (40_bus_primitive.md) -/

/-- R101: START completes unless it is a repeated start that the target holds up. -/
def Obligations.StartOpensBracket : Prop :=
  encode .start = 0x000#11 ∧ (∀ arg : Byte, arg ≠ 0#8 → raisesIllegal (0#3 ++ arg)) ∧
  ∀ s : State, (s.brk = true → s.draw.hold = false) →
    ∃ t, exec .start s = .next t ∧ t.brk = true ∧
      t.busTrace = s.busTrace ++ [if s.brk then BusEvent.repStart else BusEvent.start] ∧
      respondsWith 0x00#8 false t ∧ t.nack = s.nack ∧ t.rxb = s.rxb ∧ t.flt = s.flt ∧ mkeSame s t ∧ inputsSame s t

/-- R102: STOP inside a bracket completes when the target does not hold the bus, and releases both lines. -/
def Obligations.StopClosesBracket : Prop :=
  encode .stop = 0x100#11 ∧ (∀ arg : Byte, arg ≠ 0#8 → raisesIllegal (1#3 ++ arg)) ∧
  (∀ s : State, s.brk = true → s.draw.hold = false →
    ∃ t, exec .stop s = .next t ∧ t.brk = false ∧ t.sdaO = true ∧ t.sclO = true ∧
      t.busTrace = s.busTrace ++ [BusEvent.stop] ∧ respondsWith 0x00#8 false t ∧
      t.nack = s.nack ∧ t.rxb = s.rxb ∧ t.flt = s.flt ∧ mkeSame s t ∧ inputsSame s t) ∧
  (∀ s : State, s.brk = false → s.flt = 0#2 → ∃ t, exec .stop s = .next t ∧ faultTaken 2#2 s t)

/-- R103: WRITE_BYTE inside a bracket completes with whatever acknowledge bit the target gives. -/
def Obligations.WriteByteSendsByte : Prop :=
  ∀ b : Byte, encode (.writeByte b) = 0x200#11 + BitVec.setWidth 11 b ∧
  (∀ s : State, s.brk = true → s.draw.hold = false →
    ∃ t, exec (.writeByte b) s = .next t ∧ t.nack = s.draw.nack ∧
      t.busTrace = s.busTrace ++ [BusEvent.write b s.draw.nack] ∧ respondsWith 0x00#8 s.draw.nack t ∧
      t.brk = s.brk ∧ t.rxb = s.rxb ∧ t.flt = s.flt ∧ mkeSame s t ∧ inputsSame s t) ∧
  (∀ s : State, s.brk = false → s.flt = 0#2 → ∃ t, exec (.writeByte b) s = .next t ∧ faultTaken 2#2 s t)

/-- R104: READ_BYTE inside a bracket completes with whatever byte the target supplies. -/
def Obligations.ReadByteReceivesByte : Prop :=
  encode (.readByte false) = 0x300#11 ∧ encode (.readByte true) = 0x301#11 ∧
  (∀ arg : Byte, arg.extractLsb' 1 7 ≠ 0#7 → raisesIllegal (3#3 ++ arg)) ∧
  ∀ a : Bool,
  (∀ s : State, s.brk = true → s.draw.hold = false →
    ∃ t, exec (.readByte a) s = .next t ∧ t.rxb = s.draw.data ∧
      t.busTrace = s.busTrace ++ [BusEvent.read s.draw.data a] ∧ respondsWith s.draw.data false t ∧
      t.brk = s.brk ∧ t.nack = s.nack ∧ t.flt = s.flt ∧ mkeSame s t ∧ inputsSame s t) ∧
  (∀ s : State, s.brk = false → s.flt = 0#2 → ∃ t, exec (.readByte a) s = .next t ∧ faultTaken 2#2 s t)

/-- R105: IDLE outside a bracket completes and releases both lines. -/
def Obligations.IdleReleasesLines : Prop :=
  encode .idle = 0x500#11 ∧ (∀ arg : Byte, arg ≠ 0#8 → raisesIllegal (5#3 ++ arg)) ∧
  (∀ s : State, s.brk = false →
    ∃ t, exec .idle s = .next t ∧ t.sdaO = true ∧ t.sclO = true ∧ t.busTrace = s.busTrace ++ [BusEvent.idle] ∧
      respondsWith 0x00#8 false t ∧ t.brk = s.brk ∧ t.nack = s.nack ∧ t.rxb = s.rxb ∧ t.flt = s.flt ∧
      mkeSame s t ∧ inputsSame s t) ∧
  (∀ s : State, s.brk = true → s.flt = 0#2 → ∃ t, exec .idle s = .next t ∧ faultTaken 2#2 s t)

/-- R118 and R233: a held bus command stays in flight without effect, response or fault; and only a repeated START, STOP,
WRITE_BYTE or READ_BYTE that the target holds up does so. -/
def Obligations.StalledCommandStaysInFlight : Prop :=
  (∀ (i : Instr) (s : State), mayStall i = true → s.brk = true → s.draw.hold = true →
    ∃ t, exec i s = .next t ∧ t.busy = true ∧ t.held = some i ∧ t.rsp = none ∧ t.cmdReady = false ∧
      t.inFlight.arg = argOf i ∧ t.flt = s.flt ∧ t.brk = s.brk ∧ t.nack = s.nack ∧ t.rxb = s.rxb ∧
      t.busTrace = s.busTrace ∧ mkeSame s t ∧ inputsSame s t) ∧
  (∀ (i : Instr) (s t : State), exec i s = .next t → s.busy = false → t.busy = true →
    mayStall i = true ∧ s.brk = true ∧ s.draw.hold = true)

/-- R118: a step with a command held up asks the target again, through the same meaning. -/
def Obligations.HeldCommandAsksAgain : Prop :=
  ∀ (s : State) (i : Instr), s.busy = true → s.held = some i →
    ((s.host = [] ∨ ∃ w acts, s.host = .offer w :: acts) → step s = exec i s.sample) ∧
    (∀ acts, s.host = .wait :: acts → step s = exec i { s.sample with host := acts }) ∧
    (∀ acts, s.host = .takeReading :: acts → step s = exec i { s.sample with host := afterReading s.rsp acts }) ∧
    (∀ acts, s.host = .sendReading :: acts → step s = exec i s.sample)

/-- R233: a command in flight that the target holds up ends only by the target's release, which gives its response;
until then the registers and traces stay and there is no fault. That a step asks again is `HeldCommandAsksAgain`; the
other way out, reset, is `ResetRestoresFromAnyState`. -/
def Obligations.HangEndsOnlyByRelease : Prop :=
  ∀ (i : Instr) (s t : State), s.Inv → s.busy = true → s.held = some i → exec i s = .next t →
    (s.draw.hold = false → t.busy = false ∧ t.rsp.isSome = true ∧ t.held = none ∧ t.flt = 0#2) ∧
    (s.draw.hold = true → t.busy = true ∧ t.held = some i ∧ t.flt = 0#2 ∧ t.rsp = none ∧ t.brk = s.brk ∧
      t.nack = s.nack ∧ t.rxb = s.rxb ∧ t.busTrace = s.busTrace ∧ mkeSame s t)

/-- R111 and R232: only WRITE_BYTE sets NACK, and a missing acknowledge changes NACK, the event and the response bit, and nothing else. -/
def Obligations.AcknowledgeIsNeverChecked : Prop :=
  (∀ (i : Instr) (s t : State), exec i s = .next t → t.nack = true → s.nack = false → ∃ b, i = .writeByte b) ∧
  ∀ (b : Byte) (s : State) (d : Draw), s.brk = true → d.hold = false →
    ∃ ta tn, exec (.writeByte b) (s.withDraw { d with nack := false }) = .next ta ∧
      exec (.writeByte b) (s.withDraw { d with nack := true }) = .next tn ∧
      tn.endState =
        { ta.endState with nack := true, busTrace := s.busTrace ++ [BusEvent.write b true] } ∧
      ta.nack = false ∧ tn.flt = s.flt ∧ ta.rsp = some (Response.mk 0#8 false) ∧ tn.rsp = some (Response.mk 0#8 true)

/-- R22 and R23: nothing reads NACK or RXB: with other values in them, a command does the same to everything else. -/
def Obligations.ResultRegistersAreNeverRead : Prop :=
  ∀ (i : Instr) (s : State) (n : Bool) (d : Byte),
    forgetResults (exec i { s with nack := n, rxb := d }) = forgetResults (exec i s)

/-- R21: BRK is set by every START that completes, cleared by every STOP that completes, and unchanged otherwise. -/
def Obligations.BrkChangesOnlyByStartAndStop : Prop :=
  ∀ (i : Instr) (s t : State), exec i s = .next t →
    (i = .start → t.rsp.isSome = true → t.brk = true) ∧ (i = .stop → t.rsp.isSome = true → t.brk = false) ∧
    (t.rsp = none → t.brk = s.brk) ∧ (i ≠ .start → i ≠ .stop → t.brk = s.brk)

/-- R22, R23 and R24: NACK is written only by WRITE_BYTE, RXB only by READ_BYTE, KEY only by SEND_CHAR. -/
def Obligations.EachRegisterHasOneWriter : Prop :=
  ∀ (i : Instr) (s t : State), exec i s = .next t →
    (t.nack ≠ s.nack → ∃ b, i = .writeByte b) ∧ (t.rxb ≠ s.rxb → ∃ a, i = .readByte a) ∧
    (t.key ≠ s.key → ∃ c, i = .sendChar c)

/-- R37: bus commands neither write nor read the encoder's registers, SEND_CHAR neither writes nor reads the bus
primitive's. -/
def Obligations.TheTwoHalvesShareNoState : Prop :=
  (∀ (i : Instr) (s : State), isBusCommand i = true →
    ∃ t, exec i s = .next t ∧ mkeSame s t ∧
      ∀ (k : Bool) (tr : List Segment) (n : Nat), ∃ t', exec i { s with key := k, keyTrace := tr, time := n } = .next t' ∧
        btpSame t t' ∧ t'.rsp = t.rsp ∧ t'.busy = t.busy ∧ t'.flt = t.flt ∧ t'.held = t.held) ∧
  (∀ (c : Byte) (s : State),
    ∃ t, exec (.sendChar c) s = .next t ∧ btpSame s t ∧
      ∀ (brk nack : Bool) (rxb : Byte) (sda scl : Bool) (tr : List BusEvent),
        ∃ t', exec (.sendChar c)
            { s with brk := brk, nack := nack, rxb := rxb, sdaO := sda, sclO := scl, busTrace := tr } = .next t' ∧
          mkeSame t t' ∧ t'.rsp = t.rsp ∧ t'.flt = t.flt)

/-- The frame of every command: the traces only grow, T only grows, the host's list and the draws stay, `FLT` changes
only by a bracket violation. -/
def Obligations.CommandFrame : Prop :=
  ∀ (i : Instr) (s : State), ∃ t, exec i s = .next t ∧ inputsSame s t ∧
    s.busTrace <+: t.busTrace ∧ s.keyTrace <+: t.keyTrace ∧ s.time ≤ t.time ∧
    (t.flt ≠ s.flt → CommandList.bracketAfter i s.brk = none) ∧
    (t.busTrace ≠ s.busTrace → t.rsp.isSome = true)

/-! ### The Symbol Table (42_symbol_table.md) -/

/-- R151: LOOKUP is the linear scan of the table in force, and any match is the first. -/
def Obligations.LookupScansTableInForce : Prop :=
  (∀ (absent : Byte → Bool) (c : Byte),
    lookupWithout absent c = (symtabWithout absent).find? (fun e => decide (e.character = c)) ∧
    (∀ e ∈ symtabWithout absent, e.character = c → lookupWithout absent c = some e)) ∧
  (∀ c : Byte, lookup c = symtab.find? (fun e => decide (e.character = c))) ∧
  lookup 0x20#8 = some { character := 0x20#8, length := 0#3, code := 0#5 } ∧
  lookup 0x61#8 = some { character := 0x61#8, length := 2#3, code := 0b00010#5 } ∧
  (∀ c : Byte, 0x41 ≤ c.toNat → c.toNat ≤ 0x5A → lookup c = none) ∧ (∀ c : Byte, 0x80 ≤ c.toNat → lookup c = none)

/-- R152 and R159: whatever letters are absent, characters are unique, length 0 belongs to the space alone, which is
there, every length is at most 5, and the table is well-formed. -/
def Obligations.EveryAdmissibleTableIsWellFormed : Prop :=
  ∀ absent : Byte → Bool,
    ((symtabWithout absent).map SymbolEntry.character).Nodup ∧
    (∀ e ∈ symtabWithout absent, (e.length = 0#3 ↔ e.character = 0x20#8) ∧ e.length.toNat ≤ 5) ∧
    (lookupWithout absent 0x20#8).isSome = true ∧ SymbolTable.wf (symtabWithout absent) = true

/-- R157: a letter that may be absent is encoded as R155 says or not found; nothing else depends on the parameter; the
table has 38 entries less the absent ones. -/
def Obligations.AbsentLettersAreTheOnlyFreedom : Prop :=
  ∀ absent : Byte → Bool,
    (∀ c, optionalLetters.contains c = true →
      lookupWithout absent c = if absent c then none else lookupWithout (fun _ => false) c) ∧
    (∀ c, optionalLetters.contains c = false → lookupWithout absent c = lookupWithout (fun _ => false) c) ∧
    (symtabWithout absent).length = 38 - optionalLetters.countP absent

/-- R155, R156: the table with no letter absent is that of R155, given here by its ROM words in index order; and every
entry of every admissible table is the entry of the pattern it sends, and so is its length and code. All but the rows of
e, t, a and the space are general knowledge by the spec's own mark (G2, assumption log 7). -/
def Obligations.EntriesFollowTheirPatterns : Prop :=
  (symtabWithout (fun _ => false)).map packEntry =
    [0x6142#16, 0x6287#16, 0x6385#16, 0x6463#16, 0x6521#16, 0x668D#16, 0x6761#16, 0x688F#16, 0x6943#16, 0x6A88#16] ++
    [0x6B62#16, 0x6C8B#16, 0x6D40#16, 0x6E41#16, 0x6F60#16, 0x7089#16, 0x7182#16, 0x7265#16, 0x7367#16, 0x7420#16] ++
    [0x7566#16, 0x768E#16, 0x7764#16, 0x7886#16, 0x7984#16, 0x7A83#16, 0x30A0#16, 0x31B0#16, 0x32B8#16, 0x33BC#16] ++
    [0x34BE#16, 0x35BF#16, 0x36AF#16, 0x37A7#16, 0x38A3#16, 0x39A1#16, 0x2FAD#16, 0x2000#16] ∧
  ∀ (absent : Byte → Bool) (e : SymbolEntry), e ∈ symtabWithout absent →
    entryOfPattern e.character (patternOf e) = e ∧ (patternOf e).length = e.length.toNat

/-! ### The encoder (43_morse_encoder.md) -/

/-- R167 to R170: what each micro-operation adds and which of them SEND_CHAR fires when. -/
def Obligations.MicroOperationsEmitTheirSegments : Prop :=
  (∀ s : State,
    ((dit s).keyTrace = s.keyTrace ++ [Segment.mk true 1, Segment.mk false 1] ∧ (dit s).time = s.time + 2 ∧
      (dit s).key = false) ∧
    ((dah s).keyTrace = s.keyTrace ++ [Segment.mk true 3, Segment.mk false 1] ∧ (dah s).time = s.time + 4 ∧
      (dah s).key = false) ∧
    ((letterSilence s).keyTrace = s.keyTrace ++ [Segment.mk false 3] ∧ (letterSilence s).time = s.time + 3 ∧
      (letterSilence s).key = false) ∧
    ((wordSilence s).keyTrace = s.keyTrace ++ [Segment.mk false 7] ∧ (wordSilence s).time = s.time + 7 ∧
      (wordSilence s).key = false)) ∧
  (∀ (code : BitVec 5) (i : Nat) (s : State),
    (code.getLsbD i = true → sendElements code (i + 1) s = sendElements code i (dit s)) ∧
    (code.getLsbD i = false → sendElements code (i + 1) s = sendElements code i (dah s))) ∧
  (∀ (e : SymbolEntry) (s : State),
    (e.length = 0#3 → sendFound (some e) s = wordSilence s) ∧
    (e.length ≠ 0#3 → sendFound (some e) s = letterSilence (sendElements e.code e.length.toNat s))) ∧
  (∀ s : State, sendFound none s = s)

/-- R166: SEND_CHAR completes in every state and adds exactly the segments of its character. -/
def Obligations.SendCharAddsItsSegments : Prop :=
  charSegments 0x61#8 =
    [Segment.mk true 1, Segment.mk false 1, Segment.mk true 3, Segment.mk false 1, Segment.mk false 3] ∧
  ∀ c : Byte, encode (.sendChar c) = 0x400#11 + BitVec.setWidth 11 c ∧
  ∀ s : State,
    ∃ t, exec (.sendChar c) s = .next t ∧ t.keyTrace = s.keyTrace ++ charSegments c ∧
      t.time = s.time + totalUnits (charSegments c) ∧ t.key = (if (lookup c).isSome then false else s.key) ∧
      respondsWith 0x00#8 false t ∧ btpSame s t ∧ t.flt = s.flt ∧ inputsSame s t

/-- R172: a character not in the table is skipped: KEY, KEYTRACE and T stay, and the response is that of every other
character. -/
def Obligations.UnsupportedCharacterIsSkipped : Prop :=
  ∀ (c : Byte) (s : State), lookup c = none →
    ∃ t, exec (.sendChar c) s = .next t ∧ mkeSame s t ∧ t.flt = s.flt ∧ btpSame s t ∧
      ∀ (c' : Byte), ∃ t', exec (.sendChar c') s = .next t' ∧ t'.rsp = t.rsp ∧ t'.flt = t.flt ∧ t'.busy = t.busy

/-- R174: the duration of a character in closed form, its segments before and after merging, its asserted units. -/
def Obligations.CharacterDurations : Prop :=
  ∀ (absent : Byte → Bool) (e : SymbolEntry), e ∈ symtabWithout absent → e.length ≠ 0#3 →
    ditCount e + dahCount e = e.length.toNat ∧
    totalUnits (entrySegments e) = 2 * ditCount e + 4 * dahCount e + 3 ∧
    assertedUnits (entrySegments e) = ditCount e + 3 * dahCount e ∧
    (entrySegments e).length = 2 * e.length.toNat + 1 ∧
    (mergeSegments (entrySegments e)).length = 2 * e.length.toNat ∧
    5 ≤ totalUnits (entrySegments e) ∧ totalUnits (entrySegments e) ≤ 23

/-- R176: the pulses of a string are the sum of the lengths of its recognized characters, and its time the sum of their
units, whatever the target answers meanwhile. -/
def Obligations.PulsesOfAString : Prop :=
  ∀ (str : List Byte) (ds : Nat → Draw) (s : State),
    ∃ t rs, issueAll (withAnswers ds (sendString str)) s = some (t, rs) ∧
      t.keyTrace = s.keyTrace ++ str.flatMap charSegments ∧
      pulseCount t.keyTrace = pulseCount s.keyTrace + (str.map charLength).sum ∧
      (pulsesApart s.keyTrace = true → pulseCount (mergeSegments t.keyTrace) = pulseCount t.keyTrace) ∧
      t.time = s.time + (str.map charUnits).sum ∧
      rs = List.replicate str.length (Response.mk 0#8 false)

/-- R177: after a letter and any mixture of spaces and skipped characters, `k` of them spaces, the pin has been silent for
exactly `4 + 7 k` units. -/
def Obligations.SilencesStack : Prop :=
  ∀ (c : Byte) (e : SymbolEntry) (gap : List Byte) (ds : Nat → Draw) (s : State),
    lookup c = some e → e.length ≠ 0#3 → (∀ g ∈ gap, g = 0x20#8 ∨ lookup g = none) →
    ∃ t rs, issueAll (withAnswers ds (sendString (c :: gap))) s = some (t, rs) ∧
      trailingSilence t.keyTrace = 4 + 7 * gap.count 0x20#8

/-- R33: merging keeps the waveform, and two traces of segments of at least one unit show the same waveform exactly when
they merge to the same list. -/
def Obligations.MergedTraceIsTheWaveform : Prop :=
  (∀ l : List Segment, waveform (mergeSegments l) = waveform l) ∧
  (∀ l l' : List Segment, (∀ g ∈ l, 0 < g.units) → (∀ g ∈ l', 0 < g.units) →
    (waveform l = waveform l' ↔ mergeSegments l = mergeSegments l'))

/-! ### The host's sequences (41_sensor_sequences.md, 43_morse_encoder.md section 6) -/

/-- R131: CONFIGURE m against any target that does not stall. -/
def Obligations.ConfigureTrace : Prop :=
  (∀ m, configure m = [.start, .writeByte 0x90#8, .writeByte 0xAC#8, .writeByte m, .stop]) ∧
  ∀ (m : Byte) (ds : Nat → Draw) (s : State), s.flt = 0#2 → (∀ k, (ds k).hold = false) →
    ∃ t rs, issueAll (withAnswers ds (configure m)) s = some (t, rs) ∧
      t.busTrace = s.busTrace ++ [if s.brk then BusEvent.repStart else BusEvent.start, .write 0x90#8 (ds 1).nack,
        .write 0xAC#8 (ds 2).nack, .write m (ds 3).nack, .stop] ∧
      t.brk = false ∧ t.flt = 0#2 ∧ t.rxb = s.rxb ∧ mkeSame s t

/-- R132: INITIALIZE from a closed bracket against any target that does not stall. -/
def Obligations.InitializeTrace : Prop :=
  initializeSensor = [.idle, .start, .writeByte 0x90#8, .writeByte 0xEE#8, .stop] ++ configure 8#8 ∧
  ∀ (ds : Nat → Draw) (s : State), s.flt = 0#2 → s.brk = false → (∀ k, (ds k).hold = false) →
    ∃ t rs, issueAll (withAnswers ds initializeSensor) s = some (t, rs) ∧
      t.busTrace = s.busTrace ++ [BusEvent.idle, .start, .write 0x90#8 (ds 2).nack, .write 0xEE#8 (ds 3).nack, .stop,
        .start, .write 0x90#8 (ds 6).nack, .write 0xAC#8 (ds 7).nack, .write 0x08#8 (ds 8).nack, .stop] ∧
      t.brk = false ∧ t.flt = 0#2 ∧ t.rxb = s.rxb ∧ mkeSame s t

/-- R133 and R134: READ_TEMP from a closed bracket against any target that does not stall returns the first byte read,
sign-extended. -/
def Obligations.ReadTempTraceAndValue : Prop :=
  readTemp = [.start, .writeByte 0x90#8, .writeByte 0xAA#8, .start, .writeByte 0x91#8, .readByte true, .readByte false,
    .stop] ∧
  ∀ (ds : Nat → Draw) (s : State), s.flt = 0#2 → s.brk = false → (∀ k, (ds k).hold = false) →
    ∃ t rs, issueAll (withAnswers ds readTemp) s = some (t, rs) ∧
      t.busTrace = s.busTrace ++ [BusEvent.start, .write 0x90#8 (ds 1).nack, .write 0xAA#8 (ds 2).nack, .repStart,
        .write 0x91#8 (ds 4).nack, .read (ds 5).data true, .read (ds 6).data false, .stop] ∧
      t.brk = false ∧ t.flt = 0#2 ∧ t.rxb = (ds 6).data ∧ mkeSame s t ∧
      readTempValue rs = some (sext8 (ds 5).data) ∧ -128 ≤ sext8 (ds 5).data ∧ sext8 (ds 5).data ≤ 127

/-- R65: against the mock sensor READ_TEMP returns its high byte, sign-extended, whatever went on before. -/
def Obligations.ReadTempAgainstMockSensor : Prop :=
  ∀ (th tl : Byte) (s : State), s.flt = 0#2 → s.brk = false →
    ∃ t rs, issueMock th tl readTemp s = some (t, rs) ∧ readTempValue rs = some (sext8 th) ∧ t.rxb = tl ∧
      t.nack = false ∧ t.brk = false ∧ t.flt = 0#2

/-- R11 and R80: `sext_8` is the two's complement reading of a byte. -/
def Obligations.SextIsTwosComplement : Prop :=
  ∀ v : Byte, sext8 v = v.toInt ∧ (sext8 v) % 256 = (v.toNat : Int) ∧ (v.toNat ≤ 0x7F → sext8 v = v.toNat) ∧
    (0x80 ≤ v.toNat → sext8 v = (v.toNat : Int) - 256)

/-- R110 and R140: against a target that does not stall, a command list gets all its responses and takes no fault exactly
when it keeps the bracket discipline, and its end is the bracket state the discipline gives. -/
def Obligations.BracketedListsNeverFault : Prop :=
  ∀ (cs : List (Instr × Draw)) (s : State), s.flt = 0#2 → (∀ p ∈ cs, p.2.hold = false) →
    (∀ b, CommandList.bracketsFrom s.brk (cs.map Prod.fst) = some b →
      ∃ t rs, issueAll cs s = some (t, rs) ∧ t.brk = b ∧ t.flt = 0#2 ∧ rs.length = cs.length) ∧
    (CommandList.bracketsFrom s.brk (cs.map Prod.fst) = none → issueAll cs s = none)

/-- R51 and R140: a list of the transaction grammar keeps the bracket discipline from a closed bracket to a closed
bracket; the sensor's sequences are made of such lists. -/
def Obligations.TransactionsCloseTheirBracket : Prop :=
  (∀ cs : List Instr, CommandList.isTransaction cs = true → CommandList.bracketsFrom false cs = some false) ∧
  (∀ m : Byte, CommandList.isTransaction (configure m) = true) ∧
  CommandList.isTransaction readTemp = true ∧
  (∀ cs : List Instr, initializeSensor = .idle :: cs → CommandList.isTransaction (cs.take 4) = true ∧
    cs.drop 4 = configure 8#8)

/-- R185, R186 and P4: for a reading of at most two digits the message has 52 characters, every one of them in every
admissible table, and so many units. That every table has them is the spec's inference (D23), and the figures 551 and 42
rest on Morse patterns that are general knowledge by the spec's own mark (G2, assumption log 7). -/
def Obligations.MessageIsSentWhole : Prop :=
  ∀ t : Int, t.natAbs ≤ 99 →
    (message t).length = 52 ∧
    (∀ c ∈ message t, ∀ absent : Byte → Bool, (lookupWithout absent c).isSome = true) ∧
    ((message t).map charUnits).sum =
      551 + charUnits (if t < 0 then 0x6E#8 else 0x70#8) + charUnits (digitByte (t.natAbs / 10)) +
        charUnits (digitByte (t.natAbs % 10)) + 42

/-! ### The wires (45_wire_level.md) and the clock -/

/-- R201 to R206 and R211: the block's drive of the two lines at the end of each command's listing, and after the command.
General knowledge by the spec's own mark (assumption log 11). -/
def Obligations.WireLevelExits : Prop :=
  ∀ (d : Draw) (s : State),
    (((wireRun .start d s).sdaO = false ∧ (wireRun .start d s).sclO = false) ∧
     ((wireRun .stop d s).sdaO = true ∧ (wireRun .stop d s).sclO = true) ∧
     ((wireRun .idle d s).sdaO = true ∧ (wireRun .idle d s).sclO = true)) ∧
    (∀ b, (wireRun (.writeByte b) d s).sdaO = true ∧ (wireRun (.writeByte b) d s).sclO = false) ∧
    (∀ a, (wireRun (.readByte a) d s).sdaO = true ∧ (wireRun (.readByte a) d s).sclO = false) ∧
    (∀ i, isBusCommand i = true →
      (wireCommand i d s).sdaO = (wireRun i d s).sdaO ∧ (wireCommand i d s).sclO = (wireRun i d s).sclO)

/-- R210: a bus command run on the wires ends as the transaction level says, for some choice of the values that level
leaves free. -/
def Obligations.WireLevelRefinesTransactionLevel : Prop :=
  ∀ (i : Instr) (d : Draw) (s : State), isBusCommand i = true → CommandList.bracketAfter i s.brk ≠ none →
    ∃ (d' : Draw) (t : State), d'.nack = d.nack ∧ d'.data = d.data ∧ exec i (s.withDraw d') = .next t ∧
      (wireCommand i d s).endState = t.endState ∧ (wireCommand i d s).rsp = t.rsp

/-- R208 and R210: what a monitor of the two lines sees of a command list that keeps the bracket discipline is the image of
its bus trace under `wireEventOf`, which does not tell `S` from `Sr` nor `W(b, n)` from `R(b, 1 - n)`. Where the list also
keeps the direction discipline, as every transaction of R51 does, the monitor decodes the bus trace itself, but for its `I`
events. Rests on assumption log 11. -/
def Obligations.MonitorRecoversBusTrace : Prop :=
  (∀ (cs : List (Instr × Draw)) (s : State) (m : Monitor), (∀ p ∈ cs, isBusCommand p.1 = true) →
    CommandList.bracketsFrom s.brk (cs.map Prod.fst) ≠ none → wireRest s m →
    ∃ evs, (runWireAll cs (s, m)).1.busTrace = s.busTrace ++ evs ∧
      (runWireAll cs (s, m)).2.seen = m.seen ++ evs.flatMap wireEventOf ∧
      wireRest (runWireAll cs (s, m)).1 (runWireAll cs (s, m)).2) ∧
  (∀ (cs : List (Instr × Draw)) (s : State) (m : Monitor) (ph : BusPhase), (∀ p ∈ cs, isBusCommand p.1 = true) →
    CommandList.phasesFrom ph (cs.map Prod.fst) ≠ none → (s.brk = false ↔ ph = .closed) → wireRest s m →
    ∃ evs seen, (runWireAll cs (s, m)).1.busTrace = s.busTrace ++ evs ∧
      (runWireAll cs (s, m)).2.seen = m.seen ++ seen ∧
      decodeWireEvents ph seen = evs.filter (fun e => decide (e ≠ .idle))) ∧
  (∀ cs : List Instr, CommandList.isTransaction cs = true → CommandList.phasesFrom .closed cs = some .closed)

/-- R207 and R118: while the clock line stays low at a `wait_high`, the block waits, without limit, and nothing changes.
That the wait is on the clock line is general knowledge by the spec's own mark (assumption log 11), and the sequencer is
the model's choice (assumption log 12). -/
def Obligations.ClockHeldLowNeverCompletes : Prop :=
  ∀ (u h n : Nat) (pins : Clocked → Pins) (c : Clocked) (i : Instr) (todo : List WireLine) (gap : Nat),
    (∀ x, (pins x).rst = false ∧ (pins x).sclI = false) → c.seq = .bus i todo gap true →
    (edgesWith u h pins n c).seq = c.seq ∧ (edgesWith u h pins n c).st.endState = c.st.endState

/-- R42: with a command in flight, or with a fault, the block does not look at the command port. -/
def Obligations.PortIsDeafWhileNotReady : Prop :=
  ∀ (u h : Nat) (p : Pins) (c : Clocked) (v : Bool) (w : CmdWord), c.seq ≠ .idle ∨ c.st.cmdReady = false →
    edgeWith u h { p with cmdValid := v, cmd := w } c = edgeWith u h p c

/-- R182: a SEND_CHAR run by the clock ends, one edge for the lookup and `UNIT_CYCLES` edges a unit later, as the
transaction level says. -/
def Obligations.ClockedSendCharRefines : Prop :=
  ∀ (u h : Nat) (c : Byte) (d : Draw) (x : Clocked), 1 ≤ u → x.atRest →
    ∃ t, exec (.sendChar c) x.st = .next t ∧
      (runCommand u h (.sendChar c) d (1 + u * charUnits c) x).seq = .idle ∧
      (runCommand u h (.sendChar c) d (1 + u * charUnits c) x).st.endState = t.endState ∧
      (runCommand u h (.sendChar c) d (1 + u * charUnits c) x).st.rsp = t.rsp

/-- R182: inside a SEND_CHAR each segment holds KEY for exactly its units times `UNIT_CYCLES` cycles, with no cycle in
between. That one edge accepts the command, one looks the character up, and the last segment's end completes it is the
model's choice (assumption log 12). -/
def Obligations.KeyHoldsForExactCycles : Prop :=
  ∀ (u h : Nat) (c : Byte) (d : Draw) (x : Clocked), 1 ≤ u → x.atRest →
    keyLevels u h (answerPins d) (1 + u * charUnits c)
        (edgeWith u h (offerPins (encode (.sendChar c)) x) x) =
      (charSegments c).flatMap (fun g => List.replicate (g.units * u) g.level) ++
        [if (lookup c).isSome then false else x.st.key]

/-- R209, R210 and R118: a bus command run by the clock against a target that does not hold the bus completes and ends as
the transaction level says, for some choice of the values that level leaves free; one that has a stall point and a target
that holds the bus never completes and has no effect, as the transaction level says of a held command. Rests on assumption
logs 11 and 12. -/
def Obligations.ClockedBusCommandRefines : Prop :=
  ∀ (u h : Nat) (i : Instr) (d : Draw) (x : Clocked), 1 ≤ h → isBusCommand i = true →
    CommandList.bracketAfter i x.st.brk ≠ none → x.atRest →
    ((mayStall i && x.st.brk && d.hold) = false →
      ∃ (n : Nat) (d' : Draw) (t : State), d'.nack = d.nack ∧ d'.data = d.data ∧
        exec i (x.st.withDraw d') = .next t ∧ (runCommand u h i d n x).seq = .idle ∧
        (runCommand u h i d n x).st.endState = t.endState ∧ (runCommand u h i d n x).st.rsp = t.rsp) ∧
    ((mayStall i && x.st.brk && d.hold) = true → ∀ n : Nat,
      (runCommand u h i d n x).st.busy = true ∧ (runCommand u h i d n x).st.rsp = none ∧
      (runCommand u h i d n x).st.flt = x.st.flt ∧ (runCommand u h i d n x).st.brk = x.st.brk ∧
      (runCommand u h i d n x).st.nack = x.st.nack ∧ (runCommand u h i d n x).st.rxb = x.st.rxb ∧
      (runCommand u h i d n x).st.busTrace = x.st.busTrace ∧ mkeSame x.st (runCommand u h i d n x).st)

/-- R209: with the clock line free to rise, each line of a listing is done exactly `BUS_HALF_CYCLES` edges after the line
before it, also after the clock line is raised; when no line is left the next edge completes the command. The listing's
own lines are counted, a sample among them (the model's choice, assumption log 12); rests on assumption log 11. -/
def Obligations.LinesAreHalfPeriodsApart : Prop :=
  ∀ (u h : Nat) (pins : Clocked → Pins) (s : State) (i : Instr) (todo : List WireLine) (w : Bool), 1 ≤ h →
    (∀ x : Clocked, (pins x).rst = false ∧ (x.st.sclO = true → (pins x).sclI = true)) → (w = true → s.sclO = true) →
    (∀ l ls, todo = l :: ls →
      (edgesWith u h pins h ⟨s, .bus i todo 0 w⟩).st =
        wireApply (pins ⟨s, .bus i todo 0 w⟩).sdaI l s.dropResponse ∧
      ∃ w', (edgesWith u h pins h ⟨s, .bus i todo 0 w⟩).seq = .bus i ls 0 w' ∧
        (w' = true → (edgesWith u h pins h ⟨s, .bus i todo 0 w⟩).st.sclO = true)) ∧
    (todo = [] → (edgesWith u h pins 1 ⟨s, .bus i todo 0 w⟩).seq = .idle ∧
      (edgesWith u h pins 1 ⟨s, .bus i todo 0 w⟩).st = finishBus i s.dropResponse.redraw)

/-- R139, R266, R267: against a target that does not hold the bus the host's program runs INITIALIZE and then its cycles,
the reading of each cycle is the byte of its first read, sign-extended, and what is sent in it is the message for that
reading. In a step, the host takes the reading from the response it waits for, and the message for it takes its place in
the host's list (assumption logs 6 and 18). -/
def Obligations.EachCycleSendsItsOwnReading : Prop :=
  (∀ (n : Nat) (ds : Nat → Nat → Draw) (s : State), s.flt = 0#2 → s.brk = false → (∀ k j, (ds k j).hold = false) →
    ∃ t, beacon n ds s = some (t, (List.range n).map (fun k => sext8 (ds (k + 1) 5).data)) ∧
      t.brk = false ∧ t.flt = 0#2 ∧
      t.keyTrace = s.keyTrace ++
        (List.range n).flatMap (fun k => (message (sext8 (ds (k + 1) 5).data)).flatMap charSegments)) ∧
  (∀ (s : State) (acts : List HostAct), s.busy = false → s.host = .takeReading :: acts →
    ∃ t, step s = .next t ∧ t.endState = s.endState ∧
      (∀ r, s.rsp = some r → t.host = fillReading (sext8 r.data) acts) ∧ (s.rsp = none → t.host = s.host)) ∧
  (∀ (t : Int) (acts : List HostAct),
    fillReading t (offers (readTemp.drop 6) ++ .sendReading :: acts) =
      offers (readTemp.drop 6) ++ offers (transmission t) ++ acts) ∧
  (∀ n : Nat, hostProgram n = offers initializeSensor ++ (List.replicate n hostCycle).flatten) ∧
  hostCycle = offers (readTemp.take 6) ++ [.takeReading] ++ offers (readTemp.drop 6) ++ [.sendReading, .wait]
end

