-- ==== Sys2Proof/Laws/State.lean ====
section
/-! SUPPORT. One lemma per field of State and update of it, true by rfl, so that no proof unfolds a record update. -/

namespace Sys2Proof.Machine

@[simp] theorem State.redraw_brk (s : State) : (s.redraw).brk = s.brk := rfl
@[simp] theorem State.redraw_nack (s : State) : (s.redraw).nack = s.nack := rfl
@[simp] theorem State.redraw_rxb (s : State) : (s.redraw).rxb = s.rxb := rfl
@[simp] theorem State.redraw_sdaO (s : State) : (s.redraw).sdaO = s.sdaO := rfl
@[simp] theorem State.redraw_sclO (s : State) : (s.redraw).sclO = s.sclO := rfl
@[simp] theorem State.redraw_key (s : State) : (s.redraw).key = s.key := rfl
@[simp] theorem State.redraw_flt (s : State) : (s.redraw).flt = s.flt := rfl
@[simp] theorem State.redraw_busy (s : State) : (s.redraw).busy = s.busy := rfl
@[simp] theorem State.redraw_inFlight (s : State) : (s.redraw).inFlight = s.inFlight := rfl
@[simp] theorem State.redraw_busTrace (s : State) : (s.redraw).busTrace = s.busTrace := rfl
@[simp] theorem State.redraw_keyTrace (s : State) : (s.redraw).keyTrace = s.keyTrace := rfl
@[simp] theorem State.redraw_time (s : State) : (s.redraw).time = s.time := rfl
@[simp] theorem State.redraw_held (s : State) : (s.redraw).held = s.held := rfl
@[simp] theorem State.redraw_host (s : State) : (s.redraw).host = s.host := rfl
@[simp] theorem State.redraw_draw (s : State) : (s.redraw).draw = Config.draw s.draws := rfl
@[simp] theorem State.redraw_draws (s : State) : (s.redraw).draws = s.draws + 1 := rfl
@[simp] theorem State.redraw_rsp (s : State) : (s.redraw).rsp = s.rsp := rfl

@[simp] theorem State.sample_brk (s : State) : (s.sample).brk = s.brk := rfl
@[simp] theorem State.sample_nack (s : State) : (s.sample).nack = s.nack := rfl
@[simp] theorem State.sample_rxb (s : State) : (s.sample).rxb = s.rxb := rfl
@[simp] theorem State.sample_sdaO (s : State) : (s.sample).sdaO = s.sdaO := rfl
@[simp] theorem State.sample_sclO (s : State) : (s.sample).sclO = s.sclO := rfl
@[simp] theorem State.sample_key (s : State) : (s.sample).key = s.key := rfl
@[simp] theorem State.sample_flt (s : State) : (s.sample).flt = s.flt := rfl
@[simp] theorem State.sample_busy (s : State) : (s.sample).busy = s.busy := rfl
@[simp] theorem State.sample_inFlight (s : State) : (s.sample).inFlight = s.inFlight := rfl
@[simp] theorem State.sample_busTrace (s : State) : (s.sample).busTrace = s.busTrace := rfl
@[simp] theorem State.sample_keyTrace (s : State) : (s.sample).keyTrace = s.keyTrace := rfl
@[simp] theorem State.sample_time (s : State) : (s.sample).time = s.time := rfl
@[simp] theorem State.sample_rsp (s : State) : (s.sample).rsp = none := rfl
@[simp] theorem State.sample_held (s : State) : (s.sample).held = s.held := rfl
@[simp] theorem State.sample_host (s : State) : (s.sample).host = s.host := rfl
@[simp] theorem State.sample_draw (s : State) : (s.sample).draw = Config.draw s.draws := rfl
@[simp] theorem State.sample_draws (s : State) : (s.sample).draws = s.draws + 1 := rfl

@[simp] theorem State.withDraw_brk (d : Draw) (s : State) : (s.withDraw d).brk = s.brk := rfl
@[simp] theorem State.withDraw_nack (d : Draw) (s : State) : (s.withDraw d).nack = s.nack := rfl
@[simp] theorem State.withDraw_rxb (d : Draw) (s : State) : (s.withDraw d).rxb = s.rxb := rfl
@[simp] theorem State.withDraw_sdaO (d : Draw) (s : State) : (s.withDraw d).sdaO = s.sdaO := rfl
@[simp] theorem State.withDraw_sclO (d : Draw) (s : State) : (s.withDraw d).sclO = s.sclO := rfl
@[simp] theorem State.withDraw_key (d : Draw) (s : State) : (s.withDraw d).key = s.key := rfl
@[simp] theorem State.withDraw_flt (d : Draw) (s : State) : (s.withDraw d).flt = s.flt := rfl
@[simp] theorem State.withDraw_busy (d : Draw) (s : State) : (s.withDraw d).busy = s.busy := rfl
@[simp] theorem State.withDraw_inFlight (d : Draw) (s : State) : (s.withDraw d).inFlight = s.inFlight := rfl
@[simp] theorem State.withDraw_busTrace (d : Draw) (s : State) : (s.withDraw d).busTrace = s.busTrace := rfl
@[simp] theorem State.withDraw_keyTrace (d : Draw) (s : State) : (s.withDraw d).keyTrace = s.keyTrace := rfl
@[simp] theorem State.withDraw_time (d : Draw) (s : State) : (s.withDraw d).time = s.time := rfl
@[simp] theorem State.withDraw_rsp (d : Draw) (s : State) : (s.withDraw d).rsp = s.rsp := rfl
@[simp] theorem State.withDraw_held (d : Draw) (s : State) : (s.withDraw d).held = s.held := rfl
@[simp] theorem State.withDraw_host (d : Draw) (s : State) : (s.withDraw d).host = s.host := rfl
@[simp] theorem State.withDraw_draw (d : Draw) (s : State) : (s.withDraw d).draw = d := rfl
@[simp] theorem State.withDraw_draws (d : Draw) (s : State) : (s.withDraw d).draws = s.draws := rfl

@[simp] theorem State.emitBus_brk (ev : BusEvent) (s : State) : (s.emitBus ev).brk = s.brk := rfl
@[simp] theorem State.emitBus_nack (ev : BusEvent) (s : State) : (s.emitBus ev).nack = s.nack := rfl
@[simp] theorem State.emitBus_rxb (ev : BusEvent) (s : State) : (s.emitBus ev).rxb = s.rxb := rfl
@[simp] theorem State.emitBus_sdaO (ev : BusEvent) (s : State) : (s.emitBus ev).sdaO = s.sdaO := rfl
@[simp] theorem State.emitBus_sclO (ev : BusEvent) (s : State) : (s.emitBus ev).sclO = s.sclO := rfl
@[simp] theorem State.emitBus_key (ev : BusEvent) (s : State) : (s.emitBus ev).key = s.key := rfl
@[simp] theorem State.emitBus_flt (ev : BusEvent) (s : State) : (s.emitBus ev).flt = s.flt := rfl
@[simp] theorem State.emitBus_busy (ev : BusEvent) (s : State) : (s.emitBus ev).busy = s.busy := rfl
@[simp] theorem State.emitBus_inFlight (ev : BusEvent) (s : State) : (s.emitBus ev).inFlight = s.inFlight := rfl
@[simp] theorem State.emitBus_busTrace (ev : BusEvent) (s : State) : (s.emitBus ev).busTrace = s.busTrace ++ [ev] := rfl
@[simp] theorem State.emitBus_keyTrace (ev : BusEvent) (s : State) : (s.emitBus ev).keyTrace = s.keyTrace := rfl
@[simp] theorem State.emitBus_time (ev : BusEvent) (s : State) : (s.emitBus ev).time = s.time := rfl
@[simp] theorem State.emitBus_rsp (ev : BusEvent) (s : State) : (s.emitBus ev).rsp = s.rsp := rfl
@[simp] theorem State.emitBus_held (ev : BusEvent) (s : State) : (s.emitBus ev).held = s.held := rfl
@[simp] theorem State.emitBus_host (ev : BusEvent) (s : State) : (s.emitBus ev).host = s.host := rfl
@[simp] theorem State.emitBus_draw (ev : BusEvent) (s : State) : (s.emitBus ev).draw = s.draw := rfl
@[simp] theorem State.emitBus_draws (ev : BusEvent) (s : State) : (s.emitBus ev).draws = s.draws := rfl

@[simp] theorem State.emitKey_brk (l : Bool) (n : Nat) (s : State) : (s.emitKey l n).brk = s.brk := rfl
@[simp] theorem State.emitKey_nack (l : Bool) (n : Nat) (s : State) : (s.emitKey l n).nack = s.nack := rfl
@[simp] theorem State.emitKey_rxb (l : Bool) (n : Nat) (s : State) : (s.emitKey l n).rxb = s.rxb := rfl
@[simp] theorem State.emitKey_sdaO (l : Bool) (n : Nat) (s : State) : (s.emitKey l n).sdaO = s.sdaO := rfl
@[simp] theorem State.emitKey_sclO (l : Bool) (n : Nat) (s : State) : (s.emitKey l n).sclO = s.sclO := rfl
@[simp] theorem State.emitKey_key (l : Bool) (n : Nat) (s : State) : (s.emitKey l n).key = l := rfl
@[simp] theorem State.emitKey_flt (l : Bool) (n : Nat) (s : State) : (s.emitKey l n).flt = s.flt := rfl
@[simp] theorem State.emitKey_busy (l : Bool) (n : Nat) (s : State) : (s.emitKey l n).busy = s.busy := rfl
@[simp] theorem State.emitKey_inFlight (l : Bool) (n : Nat) (s : State) : (s.emitKey l n).inFlight = s.inFlight := rfl
@[simp] theorem State.emitKey_busTrace (l : Bool) (n : Nat) (s : State) : (s.emitKey l n).busTrace = s.busTrace := rfl
@[simp] theorem State.emitKey_keyTrace (l : Bool) (n : Nat) (s : State) : (s.emitKey l n).keyTrace = s.keyTrace ++ [Segment.mk l n] := rfl
@[simp] theorem State.emitKey_time (l : Bool) (n : Nat) (s : State) : (s.emitKey l n).time = s.time + n := rfl
@[simp] theorem State.emitKey_rsp (l : Bool) (n : Nat) (s : State) : (s.emitKey l n).rsp = s.rsp := rfl
@[simp] theorem State.emitKey_held (l : Bool) (n : Nat) (s : State) : (s.emitKey l n).held = s.held := rfl
@[simp] theorem State.emitKey_host (l : Bool) (n : Nat) (s : State) : (s.emitKey l n).host = s.host := rfl
@[simp] theorem State.emitKey_draw (l : Bool) (n : Nat) (s : State) : (s.emitKey l n).draw = s.draw := rfl
@[simp] theorem State.emitKey_draws (l : Bool) (n : Nat) (s : State) : (s.emitKey l n).draws = s.draws := rfl

@[simp] theorem State.setBrk_brk (v : Bool) (s : State) : (s.setBrk v).brk = v := rfl
@[simp] theorem State.setBrk_nack (v : Bool) (s : State) : (s.setBrk v).nack = s.nack := rfl
@[simp] theorem State.setBrk_rxb (v : Bool) (s : State) : (s.setBrk v).rxb = s.rxb := rfl
@[simp] theorem State.setBrk_sdaO (v : Bool) (s : State) : (s.setBrk v).sdaO = s.sdaO := rfl
@[simp] theorem State.setBrk_sclO (v : Bool) (s : State) : (s.setBrk v).sclO = s.sclO := rfl
@[simp] theorem State.setBrk_key (v : Bool) (s : State) : (s.setBrk v).key = s.key := rfl
@[simp] theorem State.setBrk_flt (v : Bool) (s : State) : (s.setBrk v).flt = s.flt := rfl
@[simp] theorem State.setBrk_busy (v : Bool) (s : State) : (s.setBrk v).busy = s.busy := rfl
@[simp] theorem State.setBrk_inFlight (v : Bool) (s : State) : (s.setBrk v).inFlight = s.inFlight := rfl
@[simp] theorem State.setBrk_busTrace (v : Bool) (s : State) : (s.setBrk v).busTrace = s.busTrace := rfl
@[simp] theorem State.setBrk_keyTrace (v : Bool) (s : State) : (s.setBrk v).keyTrace = s.keyTrace := rfl
@[simp] theorem State.setBrk_time (v : Bool) (s : State) : (s.setBrk v).time = s.time := rfl
@[simp] theorem State.setBrk_rsp (v : Bool) (s : State) : (s.setBrk v).rsp = s.rsp := rfl
@[simp] theorem State.setBrk_held (v : Bool) (s : State) : (s.setBrk v).held = s.held := rfl
@[simp] theorem State.setBrk_host (v : Bool) (s : State) : (s.setBrk v).host = s.host := rfl
@[simp] theorem State.setBrk_draw (v : Bool) (s : State) : (s.setBrk v).draw = s.draw := rfl
@[simp] theorem State.setBrk_draws (v : Bool) (s : State) : (s.setBrk v).draws = s.draws := rfl

@[simp] theorem State.releaseLines_brk (s : State) : (s.releaseLines).brk = s.brk := rfl
@[simp] theorem State.releaseLines_nack (s : State) : (s.releaseLines).nack = s.nack := rfl
@[simp] theorem State.releaseLines_rxb (s : State) : (s.releaseLines).rxb = s.rxb := rfl
@[simp] theorem State.releaseLines_sdaO (s : State) : (s.releaseLines).sdaO = true := rfl
@[simp] theorem State.releaseLines_sclO (s : State) : (s.releaseLines).sclO = true := rfl
@[simp] theorem State.releaseLines_key (s : State) : (s.releaseLines).key = s.key := rfl
@[simp] theorem State.releaseLines_flt (s : State) : (s.releaseLines).flt = s.flt := rfl
@[simp] theorem State.releaseLines_busy (s : State) : (s.releaseLines).busy = s.busy := rfl
@[simp] theorem State.releaseLines_inFlight (s : State) : (s.releaseLines).inFlight = s.inFlight := rfl
@[simp] theorem State.releaseLines_busTrace (s : State) : (s.releaseLines).busTrace = s.busTrace := rfl
@[simp] theorem State.releaseLines_keyTrace (s : State) : (s.releaseLines).keyTrace = s.keyTrace := rfl
@[simp] theorem State.releaseLines_time (s : State) : (s.releaseLines).time = s.time := rfl
@[simp] theorem State.releaseLines_rsp (s : State) : (s.releaseLines).rsp = s.rsp := rfl
@[simp] theorem State.releaseLines_held (s : State) : (s.releaseLines).held = s.held := rfl
@[simp] theorem State.releaseLines_host (s : State) : (s.releaseLines).host = s.host := rfl
@[simp] theorem State.releaseLines_draw (s : State) : (s.releaseLines).draw = s.draw := rfl
@[simp] theorem State.releaseLines_draws (s : State) : (s.releaseLines).draws = s.draws := rfl

@[simp] theorem State.freeLines_brk (s : State) : (s.freeLines).brk = s.brk := rfl
@[simp] theorem State.freeLines_nack (s : State) : (s.freeLines).nack = s.nack := rfl
@[simp] theorem State.freeLines_rxb (s : State) : (s.freeLines).rxb = s.rxb := rfl
@[simp] theorem State.freeLines_sdaO (s : State) : (s.freeLines).sdaO = s.draw.sda := rfl
@[simp] theorem State.freeLines_sclO (s : State) : (s.freeLines).sclO = s.draw.scl := rfl
@[simp] theorem State.freeLines_key (s : State) : (s.freeLines).key = s.key := rfl
@[simp] theorem State.freeLines_flt (s : State) : (s.freeLines).flt = s.flt := rfl
@[simp] theorem State.freeLines_busy (s : State) : (s.freeLines).busy = s.busy := rfl
@[simp] theorem State.freeLines_inFlight (s : State) : (s.freeLines).inFlight = s.inFlight := rfl
@[simp] theorem State.freeLines_busTrace (s : State) : (s.freeLines).busTrace = s.busTrace := rfl
@[simp] theorem State.freeLines_keyTrace (s : State) : (s.freeLines).keyTrace = s.keyTrace := rfl
@[simp] theorem State.freeLines_time (s : State) : (s.freeLines).time = s.time := rfl
@[simp] theorem State.freeLines_rsp (s : State) : (s.freeLines).rsp = s.rsp := rfl
@[simp] theorem State.freeLines_held (s : State) : (s.freeLines).held = s.held := rfl
@[simp] theorem State.freeLines_host (s : State) : (s.freeLines).host = s.host := rfl
@[simp] theorem State.freeLines_draw (s : State) : (s.freeLines).draw = s.draw := rfl
@[simp] theorem State.freeLines_draws (s : State) : (s.freeLines).draws = s.draws := rfl

@[simp] theorem State.complete_brk (d : Byte) (n : Bool) (s : State) : (s.complete d n).brk = s.brk := rfl
@[simp] theorem State.complete_nack (d : Byte) (n : Bool) (s : State) : (s.complete d n).nack = s.nack := rfl
@[simp] theorem State.complete_rxb (d : Byte) (n : Bool) (s : State) : (s.complete d n).rxb = s.rxb := rfl
@[simp] theorem State.complete_sdaO (d : Byte) (n : Bool) (s : State) : (s.complete d n).sdaO = s.sdaO := rfl
@[simp] theorem State.complete_sclO (d : Byte) (n : Bool) (s : State) : (s.complete d n).sclO = s.sclO := rfl
@[simp] theorem State.complete_key (d : Byte) (n : Bool) (s : State) : (s.complete d n).key = s.key := rfl
@[simp] theorem State.complete_flt (d : Byte) (n : Bool) (s : State) : (s.complete d n).flt = s.flt := rfl
@[simp] theorem State.complete_busy (d : Byte) (n : Bool) (s : State) : (s.complete d n).busy = false := rfl
@[simp] theorem State.complete_inFlight (d : Byte) (n : Bool) (s : State) : (s.complete d n).inFlight = s.draw.dead := rfl
@[simp] theorem State.complete_busTrace (d : Byte) (n : Bool) (s : State) : (s.complete d n).busTrace = s.busTrace := rfl
@[simp] theorem State.complete_keyTrace (d : Byte) (n : Bool) (s : State) : (s.complete d n).keyTrace = s.keyTrace := rfl
@[simp] theorem State.complete_time (d : Byte) (n : Bool) (s : State) : (s.complete d n).time = s.time := rfl
@[simp] theorem State.complete_rsp (d : Byte) (n : Bool) (s : State) : (s.complete d n).rsp = some (Response.mk d n) := rfl
@[simp] theorem State.complete_held (d : Byte) (n : Bool) (s : State) : (s.complete d n).held = none := rfl
@[simp] theorem State.complete_host (d : Byte) (n : Bool) (s : State) : (s.complete d n).host = s.host := rfl
@[simp] theorem State.complete_draw (d : Byte) (n : Bool) (s : State) : (s.complete d n).draw = s.draw := rfl
@[simp] theorem State.complete_draws (d : Byte) (n : Bool) (s : State) : (s.complete d n).draws = s.draws := rfl

@[simp] theorem State.park_brk (i : Instr) (s : State) : (s.park i).brk = s.brk := rfl
@[simp] theorem State.park_nack (i : Instr) (s : State) : (s.park i).nack = s.nack := rfl
@[simp] theorem State.park_rxb (i : Instr) (s : State) : (s.park i).rxb = s.rxb := rfl
@[simp] theorem State.park_sdaO (i : Instr) (s : State) : (s.park i).sdaO = s.draw.sda := rfl
@[simp] theorem State.park_sclO (i : Instr) (s : State) : (s.park i).sclO = s.draw.scl := rfl
@[simp] theorem State.park_key (i : Instr) (s : State) : (s.park i).key = s.key := rfl
@[simp] theorem State.park_flt (i : Instr) (s : State) : (s.park i).flt = s.flt := rfl
@[simp] theorem State.park_busy (i : Instr) (s : State) : (s.park i).busy = true := rfl
@[simp] theorem State.park_inFlight (i : Instr) (s : State) : (s.park i).inFlight = { s.draw.dead with arg := argOf i } := rfl
@[simp] theorem State.park_busTrace (i : Instr) (s : State) : (s.park i).busTrace = s.busTrace := rfl
@[simp] theorem State.park_keyTrace (i : Instr) (s : State) : (s.park i).keyTrace = s.keyTrace := rfl
@[simp] theorem State.park_time (i : Instr) (s : State) : (s.park i).time = s.time := rfl
@[simp] theorem State.park_rsp (i : Instr) (s : State) : (s.park i).rsp = none := rfl
@[simp] theorem State.park_held (i : Instr) (s : State) : (s.park i).held = some i := rfl
@[simp] theorem State.park_host (i : Instr) (s : State) : (s.park i).host = s.host := rfl
@[simp] theorem State.park_draw (i : Instr) (s : State) : (s.park i).draw = s.draw := rfl
@[simp] theorem State.park_draws (i : Instr) (s : State) : (s.park i).draws = s.draws := rfl

@[simp] theorem State.takeFault_brk (c : BitVec 2) (s : State) : (s.takeFault c).brk = s.brk := rfl
@[simp] theorem State.takeFault_nack (c : BitVec 2) (s : State) : (s.takeFault c).nack = s.nack := rfl
@[simp] theorem State.takeFault_rxb (c : BitVec 2) (s : State) : (s.takeFault c).rxb = s.rxb := rfl
@[simp] theorem State.takeFault_sdaO (c : BitVec 2) (s : State) : (s.takeFault c).sdaO = s.sdaO := rfl
@[simp] theorem State.takeFault_sclO (c : BitVec 2) (s : State) : (s.takeFault c).sclO = s.sclO := rfl
@[simp] theorem State.takeFault_key (c : BitVec 2) (s : State) : (s.takeFault c).key = s.key := rfl
@[simp] theorem State.takeFault_flt (c : BitVec 2) (s : State) : (s.takeFault c).flt = stickyFlt s.flt c := rfl
@[simp] theorem State.takeFault_busy (c : BitVec 2) (s : State) : (s.takeFault c).busy = s.busy := rfl
@[simp] theorem State.takeFault_inFlight (c : BitVec 2) (s : State) : (s.takeFault c).inFlight = s.inFlight := rfl
@[simp] theorem State.takeFault_busTrace (c : BitVec 2) (s : State) : (s.takeFault c).busTrace = s.busTrace := rfl
@[simp] theorem State.takeFault_keyTrace (c : BitVec 2) (s : State) : (s.takeFault c).keyTrace = s.keyTrace := rfl
@[simp] theorem State.takeFault_time (c : BitVec 2) (s : State) : (s.takeFault c).time = s.time := rfl
@[simp] theorem State.takeFault_rsp (c : BitVec 2) (s : State) : (s.takeFault c).rsp = none := rfl
@[simp] theorem State.takeFault_held (c : BitVec 2) (s : State) : (s.takeFault c).held = s.held := rfl
@[simp] theorem State.takeFault_host (c : BitVec 2) (s : State) : (s.takeFault c).host = s.host := rfl
@[simp] theorem State.takeFault_draw (c : BitVec 2) (s : State) : (s.takeFault c).draw = s.draw := rfl
@[simp] theorem State.takeFault_draws (c : BitVec 2) (s : State) : (s.takeFault c).draws = s.draws := rfl

@[simp] theorem State.hardReset_brk (s : State) : (s.hardReset).brk = false := rfl
@[simp] theorem State.hardReset_nack (s : State) : (s.hardReset).nack = false := rfl
@[simp] theorem State.hardReset_rxb (s : State) : (s.hardReset).rxb = 0#8 := rfl
@[simp] theorem State.hardReset_sdaO (s : State) : (s.hardReset).sdaO = true := rfl
@[simp] theorem State.hardReset_sclO (s : State) : (s.hardReset).sclO = true := rfl
@[simp] theorem State.hardReset_key (s : State) : (s.hardReset).key = false := rfl
@[simp] theorem State.hardReset_flt (s : State) : (s.hardReset).flt = 0#2 := rfl
@[simp] theorem State.hardReset_busy (s : State) : (s.hardReset).busy = false := rfl
@[simp] theorem State.hardReset_inFlight (s : State) : (s.hardReset).inFlight = inFlightReset := rfl
@[simp] theorem State.hardReset_busTrace (s : State) : (s.hardReset).busTrace = [] := rfl
@[simp] theorem State.hardReset_keyTrace (s : State) : (s.hardReset).keyTrace = [] := rfl
@[simp] theorem State.hardReset_time (s : State) : (s.hardReset).time = 0 := rfl
@[simp] theorem State.hardReset_rsp (s : State) : (s.hardReset).rsp = none := rfl
@[simp] theorem State.hardReset_held (s : State) : (s.hardReset).held = none := rfl
@[simp] theorem State.hardReset_host (s : State) : (s.hardReset).host = s.host := rfl
@[simp] theorem State.hardReset_draw (s : State) : (s.hardReset).draw = s.draw := rfl
@[simp] theorem State.hardReset_draws (s : State) : (s.hardReset).draws = s.draws := rfl

@[simp] theorem State.load_brk (i : Instr) (s : State) : (s.load i).brk = s.brk := rfl
@[simp] theorem State.load_nack (i : Instr) (s : State) : (s.load i).nack = s.nack := rfl
@[simp] theorem State.load_rxb (i : Instr) (s : State) : (s.load i).rxb = s.rxb := rfl
@[simp] theorem State.load_sdaO (i : Instr) (s : State) : (s.load i).sdaO = s.sdaO := rfl
@[simp] theorem State.load_sclO (i : Instr) (s : State) : (s.load i).sclO = s.sclO := rfl
@[simp] theorem State.load_key (i : Instr) (s : State) : (s.load i).key = s.key := rfl
@[simp] theorem State.load_flt (i : Instr) (s : State) : (s.load i).flt = s.flt := rfl
@[simp] theorem State.load_busy (i : Instr) (s : State) : (s.load i).busy = true := rfl
@[simp] theorem State.load_inFlight (i : Instr) (s : State) : (s.load i).inFlight = { s.draw.dead with arg := argOf i, shr := argOf i, bitcnt := 0#4 } := rfl
@[simp] theorem State.load_busTrace (i : Instr) (s : State) : (s.load i).busTrace = s.busTrace := rfl
@[simp] theorem State.load_keyTrace (i : Instr) (s : State) : (s.load i).keyTrace = s.keyTrace := rfl
@[simp] theorem State.load_time (i : Instr) (s : State) : (s.load i).time = s.time := rfl
@[simp] theorem State.load_rsp (i : Instr) (s : State) : (s.load i).rsp = s.rsp := rfl
@[simp] theorem State.load_held (i : Instr) (s : State) : (s.load i).held = s.held := rfl
@[simp] theorem State.load_host (i : Instr) (s : State) : (s.load i).host = s.host := rfl
@[simp] theorem State.load_draw (i : Instr) (s : State) : (s.load i).draw = s.draw := rfl
@[simp] theorem State.load_draws (i : Instr) (s : State) : (s.load i).draws = s.draws := rfl

@[simp] theorem State.dropResponse_brk (s : State) : (s.dropResponse).brk = s.brk := rfl
@[simp] theorem State.dropResponse_nack (s : State) : (s.dropResponse).nack = s.nack := rfl
@[simp] theorem State.dropResponse_rxb (s : State) : (s.dropResponse).rxb = s.rxb := rfl
@[simp] theorem State.dropResponse_sdaO (s : State) : (s.dropResponse).sdaO = s.sdaO := rfl
@[simp] theorem State.dropResponse_sclO (s : State) : (s.dropResponse).sclO = s.sclO := rfl
@[simp] theorem State.dropResponse_key (s : State) : (s.dropResponse).key = s.key := rfl
@[simp] theorem State.dropResponse_flt (s : State) : (s.dropResponse).flt = s.flt := rfl
@[simp] theorem State.dropResponse_busy (s : State) : (s.dropResponse).busy = s.busy := rfl
@[simp] theorem State.dropResponse_inFlight (s : State) : (s.dropResponse).inFlight = s.inFlight := rfl
@[simp] theorem State.dropResponse_busTrace (s : State) : (s.dropResponse).busTrace = s.busTrace := rfl
@[simp] theorem State.dropResponse_keyTrace (s : State) : (s.dropResponse).keyTrace = s.keyTrace := rfl
@[simp] theorem State.dropResponse_time (s : State) : (s.dropResponse).time = s.time := rfl
@[simp] theorem State.dropResponse_rsp (s : State) : (s.dropResponse).rsp = none := rfl
@[simp] theorem State.dropResponse_held (s : State) : (s.dropResponse).held = s.held := rfl
@[simp] theorem State.dropResponse_host (s : State) : (s.dropResponse).host = s.host := rfl
@[simp] theorem State.dropResponse_draw (s : State) : (s.dropResponse).draw = s.draw := rfl
@[simp] theorem State.dropResponse_draws (s : State) : (s.dropResponse).draws = s.draws := rfl

end Sys2Proof.Machine
end

