-- ==== Sys2Proof/Laws/Morse.lean ====
section
/-! SUPPORT. What the encoder's operations do, said once: they add a list of segments. -/

namespace Sys2Proof.Machine

theorem totalUnits_append (l l' : List Segment) : totalUnits (l ++ l') = totalUnits l + totalUnits l' := by
  simp [totalUnits]

theorem pulseCount_append (l l' : List Segment) : pulseCount (l ++ l') = pulseCount l + pulseCount l' := by
  simp [pulseCount]

theorem waveform_append (l l' : List Segment) : waveform (l ++ l') = waveform l ++ waveform l' := by
  simp [waveform]

/-- A list of segments is emitted: `emit_key` for each in order. -/
def State.addSegments (segs : List Segment) (s : State) : State :=
  { s with key := (segs.getLast?.map Segment.level).getD s.key, keyTrace := s.keyTrace ++ segs,
           time := s.time + totalUnits segs }

@[simp] theorem State.addSegments_nil (s : State) : s.addSegments [] = s := by
  simp [State.addSegments, totalUnits]

theorem State.addSegments_append (l l' : List Segment) (s : State) :
    s.addSegments (l ++ l') = (s.addSegments l).addSegments l' := by
  cases hl' : l'.getLast? <;> simp [State.addSegments, totalUnits_append, List.getLast?_append, hl', Nat.add_assoc]

theorem State.emitKey_eq (l : Bool) (n : Nat) (s : State) : s.emitKey l n = s.addSegments [Segment.mk l n] := by
  simp [State.emitKey, State.addSegments, totalUnits]

/-- One element fires a dit or a dah. -/
theorem element_eq (d : Bool) (s : State) : (if d then dit s else dah s) = s.addSegments (elementSegments d) := by
  cases d <;>
    simp [dit, dah, State.emitKey_eq, ← State.addSegments_append, elementSegments, Config.ditOn, Config.dahOn,
      Config.elemGap]

/-- The elements sent for `n` bit positions, from `n - 1` down to 0. -/
theorem sendElements_eq (code : BitVec 5) (n : Nat) (s : State) :
    sendElements code n s = s.addSegments ((((List.range n).map (isDit code)).reverse).flatMap elementSegments) := by
  induction n generalizing s with
  | zero => simp [sendElements]
  | succ n ih =>
    rw [sendElements, ih, element_eq, ← State.addSegments_append]
    simp [List.range_succ]

/-- An entry is sent by adding its segments. -/
theorem sendEntry_eq (e : SymbolEntry) (s : State) : sendEntry e s = s.addSegments (entrySegments e) := by
  unfold sendEntry entrySegments
  split
  · simp [wordSilence, State.emitKey_eq, Config.wordSil]
  · simp [letterSilence, State.emitKey_eq, sendElements_eq, ← State.addSegments_append, Config.letterSil, patternOf]

/-- The segments of what LOOKUP found. -/
def foundSegments (found : Option SymbolEntry) : List Segment :=
  match found with
  | none => []
  | some e => entrySegments e

theorem sendFound_eq (found : Option SymbolEntry) (s : State) :
    sendFound found s = s.addSegments (foundSegments found) := by
  cases found <;> simp [sendFound, foundSegments, sendEntry_eq]

theorem charSegments_eq (c : Byte) : charSegments c = foundSegments (lookup c) := rfl

/-- The last segment of an entry is a silence. -/
theorem entrySegments_getLast (e : SymbolEntry) : (entrySegments e).getLast?.map Segment.level = some false := by
  unfold entrySegments
  split <;> simp [List.getLast?_append]

/-- After a character the pin is deasserted if it was before. -/
theorem sendFound_key (found : Option SymbolEntry) (s : State) :
    (sendFound found s).key = (if found.isSome then false else s.key) := by
  cases found with
  | none => simp [sendFound]
  | some e => rw [sendFound, sendEntry_eq]; simp [State.addSegments, entrySegments_getLast]

@[simp] theorem State.addSegments_keyTrace (l : List Segment) (s : State) :
    (s.addSegments l).keyTrace = s.keyTrace ++ l := rfl
@[simp] theorem State.addSegments_time (l : List Segment) (s : State) :
    (s.addSegments l).time = s.time + totalUnits l := rfl
@[simp] theorem State.addSegments_brk (l : List Segment) (s : State) : (s.addSegments l).brk = s.brk := rfl
@[simp] theorem State.addSegments_nack (l : List Segment) (s : State) : (s.addSegments l).nack = s.nack := rfl
@[simp] theorem State.addSegments_rxb (l : List Segment) (s : State) : (s.addSegments l).rxb = s.rxb := rfl
@[simp] theorem State.addSegments_sdaO (l : List Segment) (s : State) : (s.addSegments l).sdaO = s.sdaO := rfl
@[simp] theorem State.addSegments_sclO (l : List Segment) (s : State) : (s.addSegments l).sclO = s.sclO := rfl
@[simp] theorem State.addSegments_flt (l : List Segment) (s : State) : (s.addSegments l).flt = s.flt := rfl
@[simp] theorem State.addSegments_busy (l : List Segment) (s : State) : (s.addSegments l).busy = s.busy := rfl
@[simp] theorem State.addSegments_inFlight (l : List Segment) (s : State) : (s.addSegments l).inFlight = s.inFlight := rfl
@[simp] theorem State.addSegments_busTrace (l : List Segment) (s : State) : (s.addSegments l).busTrace = s.busTrace := rfl
@[simp] theorem State.addSegments_rsp (l : List Segment) (s : State) : (s.addSegments l).rsp = s.rsp := rfl
@[simp] theorem State.addSegments_held (l : List Segment) (s : State) : (s.addSegments l).held = s.held := rfl
@[simp] theorem State.addSegments_host (l : List Segment) (s : State) : (s.addSegments l).host = s.host := rfl
@[simp] theorem State.addSegments_draw (l : List Segment) (s : State) : (s.addSegments l).draw = s.draw := rfl
@[simp] theorem State.addSegments_draws (l : List Segment) (s : State) : (s.addSegments l).draws = s.draws := rfl

/-- What `sendFound` leaves alone and what it adds. -/
theorem sendFound_frame (found : Option SymbolEntry) (s : State) :
    btpSame s (sendFound found s) ∧ (sendFound found s).flt = s.flt ∧ inputsSame s (sendFound found s) ∧
    (sendFound found s).keyTrace = s.keyTrace ++ foundSegments found ∧
    (sendFound found s).time = s.time + totalUnits (foundSegments found) ∧
    (sendFound found s).busy = s.busy ∧ (sendFound found s).held = s.held := by
  rw [sendFound_eq]
  simp [btpSame, inputsSame]

end Sys2Proof.Machine
end

