-- ==== Sys2Proof/Laws/Exec.lean ====
section
/-! SUPPORT. What `exec` can do, said once: a command forbidden by the bracket discipline faults, one that the target
holds up is parked, every other completes. -/

namespace Sys2Proof.Machine

/-- The state in which a command that nothing stops ends. -/
def finished (i : Instr) (s : State) : State :=
  match i with
  | .start => (finishStart s).freeLines
  | .stop => finishStop s
  | .writeByte b => (finishWrite b s.draw.nack s).freeLines
  | .readByte a => (finishRead a s.draw.data s).freeLines
  | .sendChar c => (sendFound (lookup c) s).complete 0x00#8 false
  | .idle => finishIdle s

/-- The target holds this command up in this state (R118). -/
def stalls (i : Instr) (s : State) : Bool := mayStall i && s.brk && s.draw.hold

/-- The state a command ends in. -/
def outcomeState (i : Instr) (s : State) : State :=
  if bracketLegal i s.brk then (if stalls i s then s.park i else finished i s) else s.takeFault fltBusProtocol

/-- `exec` always answers a next state, and this is it. -/
theorem exec_eq (i : Instr) (s : State) : exec i s = .next (outcomeState i s) := by
  cases i <;> cases hb : s.brk <;> cases hh : s.draw.hold <;>
    simp [exec, execStart, execStop, execWriteByte, execReadByte, execSendChar, execIdle, guardBracket, waitTarget,
      outcomeState, stalls, mayStall, bracketLegal, finished, State.targetWrite, State.targetRead, hb, hh]

/-- What a state `exec` answers can be. -/
theorem exec_cases {i : Instr} {s t : State} (h : exec i s = .next t) :
    (bracketLegal i s.brk = false ∧ t = s.takeFault fltBusProtocol) ∨
    (mayStall i = true ∧ s.brk = true ∧ s.draw.hold = true ∧ t = s.park i) ∨
    (bracketLegal i s.brk = true ∧ stalls i s = false ∧ t = finished i s) := by
  rw [exec_eq] at h
  injection h with h
  subst h
  unfold outcomeState
  cases hl : bracketLegal i s.brk
  · exact .inl ⟨rfl, by simp⟩
  · cases hs : stalls i s
    · exact .inr (.inr ⟨rfl, rfl, by simp⟩)
    · have h3 : mayStall i = true ∧ s.brk = true ∧ s.draw.hold = true := by
        simpa [stalls, Bool.and_eq_true, and_assoc] using hs
      exact .inr (.inl ⟨h3.1, h3.2.1, h3.2.2, by simp⟩)

/-- A forbidden command takes BUS_PROTOCOL. -/
theorem exec_forbidden {i : Instr} {s : State} (h : bracketLegal i s.brk = false) :
    exec i s = .next (s.takeFault fltBusProtocol) := by
  simp [exec_eq, outcomeState, h]

/-- A command the target holds up is parked. -/
theorem exec_stalled {i : Instr} {s : State} (hm : mayStall i = true) (hb : s.brk = true) (hh : s.draw.hold = true) :
    exec i s = .next (s.park i) := by
  have hl : bracketLegal i true = true := by cases i <;> simp_all [mayStall, bracketLegal]
  simp [exec_eq, outcomeState, hl, stalls, hm, hb, hh]

/-- A legal command that the target does not hold up completes. -/
theorem exec_finished {i : Instr} {s : State} (hl : bracketLegal i s.brk = true) (hs : stalls i s = false) :
    exec i s = .next (finished i s) := by
  simp [exec_eq, outcomeState, hl, hs]

/-- The two forms of the bracket discipline agree (R110). -/
theorem bracketLegal_eq_isSome (i : Instr) (b : Bool) : bracketLegal i b = (CommandList.bracketAfter i b).isSome := by
  cases i <;> cases b <;> rfl

/-- A completed command leaves the bracket state the discipline gives. -/
theorem finished_brk {i : Instr} {s : State} {b : Bool} (h : CommandList.bracketAfter i s.brk = some b) :
    (finished i s).brk = b := by
  cases i <;> cases hb : s.brk <;> simp [CommandList.bracketAfter, hb] at h <;> subst h <;>
    simp [finished, finishStart, finishStop, finishWrite, finishRead, finishIdle, sendFound_eq, hb]

end Sys2Proof.Machine
end

