-- ==== Sys2Proof/Laws/Clock.lean ====
section
/-! SUPPORT. What clock edges do: runs of edges joined, a segment counted down, a wait for the clock line. -/

namespace Sys2Proof.Machine

/-- Edges one after the other. -/
theorem edgesWith_add (u h : Nat) (pins : Clocked → Pins) (n m : Nat) (c : Clocked) :
    edgesWith u h pins (n + m) c = edgesWith u h pins m (edgesWith u h pins n c) := by
  induction n generalizing c with
  | zero => simp [edgesWith]
  | succ n ih => rw [Nat.add_right_comm]; exact ih _

/-- The pin's levels over edges one after the other. -/
theorem keyLevels_add (u h : Nat) (pins : Clocked → Pins) (n m : Nat) (c : Clocked) :
    keyLevels u h pins (n + m) c = keyLevels u h pins n c ++ keyLevels u h pins m (edgesWith u h pins n c) := by
  induction n generalizing c with
  | zero => simp [edgesWith, keyLevels]
  | succ n ih =>
    rw [Nat.add_right_comm]
    simp only [keyLevels, edgesWith, List.cons_append, List.cons.injEq, true_and]
    exact ih _

/-- A state with given unit timer and no response. -/
def State.timed (units : BitVec 3) (cycles : Nat) (s : State) : State :=
  { s with rsp := none, inFlight := { s.inFlight with ucnt := units, cyc := cycles } }

/-- One edge of a `SEND_CHAR` without reset. -/
theorem edgeWith_key {u h : Nat} {p : Pins} {s : State} {ph : KeyPhase} (hr : p.rst = false) :
    edgeWith u h p ⟨s, .key ph⟩ = keyEdge u ph s.dropResponse := by
  simp [edgeWith, hr]

/-- An edge at the end of a unit that is not the last of its segment. -/
theorem keyEdge_nextUnit {u : Nat} {ph : KeyPhase} {s : State} (hp : ph ≠ .find) (hc : s.inFlight.cyc = 0)
    (hn : 1 < s.inFlight.ucnt.toNat) :
    keyEdge u ph s =
      ⟨{ s with inFlight := { s.inFlight with ucnt := s.inFlight.ucnt - 1#3, cyc := u - 1 } }, .key ph⟩ := by
  simp [keyEdge, hp, hc, hn]

/-- An edge at the end of a segment. -/
theorem keyEdge_nextSegment {u : Nat} {ph : KeyPhase} {s : State} (hc : s.inFlight.cyc = 0)
    (hn : s.inFlight.ucnt = 1#3) : keyEdge u ph s = nextSegment u ph s := by
  simp [keyEdge, hc, hn]

/-- The cycles of a unit pass: nothing but `CYC` changes. -/
theorem unit_passes {u h : Nat} {pins : Clocked → Pins} {ph : KeyPhase} (hr : ∀ x, (pins x).rst = false)
    (hp : ph ≠ .find) (s : State) (n : BitVec 3) (c : Nat) :
    edgesWith u h pins c ⟨s.timed n c, .key ph⟩ = ⟨s.timed n 0, .key ph⟩ ∧
    keyLevels u h pins c ⟨s.timed n c, .key ph⟩ = List.replicate c s.key := by
  induction c with
  | zero => exact ⟨rfl, rfl⟩
  | succ c ih =>
    have e : edgeWith u h (pins ⟨s.timed n (c + 1), .key ph⟩) ⟨s.timed n (c + 1), .key ph⟩ = ⟨s.timed n c, .key ph⟩ := by
      rw [edgeWith_key (hr _)]
      simp [keyEdge, hp, State.timed, State.dropResponse]
    simp only [edgesWith, keyLevels, e, List.replicate_succ, ih.1, ih.2, true_and]
    rfl

/-- The units of a segment pass, `n` after the current one: the timer runs down and nothing else changes, and the pin
keeps its level. -/
theorem segment_passes {u h : Nat} {pins : Clocked → Pins} {ph : KeyPhase} (hr : ∀ x, (pins x).rst = false)
    (hp : ph ≠ .find) (hu : 1 ≤ u) (s : State) (n : Nat) (hn : n < 7) :
    edgesWith u h pins ((n + 1) * u - 1) ⟨s.timed (BitVec.ofNat 3 (n + 1)) (u - 1), .key ph⟩ =
      ⟨s.timed 1#3 0, .key ph⟩ ∧
    keyLevels u h pins ((n + 1) * u - 1) ⟨s.timed (BitVec.ofNat 3 (n + 1)) (u - 1), .key ph⟩ =
      List.replicate ((n + 1) * u - 1) s.key := by
  induction n with
  | zero => simpa using unit_passes hr hp s 1#3 (u - 1)
  | succ n ih =>
    have hs : (n + 1 + 1) * u - 1 = (u - 1) + (1 + ((n + 1) * u - 1)) := by
      have : 1 ≤ (n + 1) * u := Nat.mul_pos (by omega) hu
      rw [Nat.succ_mul (n + 1) u]; omega
    obtain ⟨e1, l1⟩ := unit_passes (u := u) (h := h) hr hp s (BitVec.ofNat 3 (n + 1 + 1)) (u - 1)
    have hm : (BitVec.ofNat 3 (n + 1 + 1)).toNat = n + 2 := by
      simp only [BitVec.toNat_ofNat]; omega
    have e2 : edgesWith u h pins 1 ⟨s.timed (BitVec.ofNat 3 (n + 1 + 1)) 0, .key ph⟩ =
        ⟨s.timed (BitVec.ofNat 3 (n + 1)) (u - 1), .key ph⟩ := by
      have hsub : BitVec.ofNat 3 (n + 1 + 1) - 1#3 = BitVec.ofNat 3 (n + 1) := by
        apply BitVec.eq_of_toNat_eq
        simp only [BitVec.toNat_sub, BitVec.toNat_ofNat]; omega
      simp only [edgesWith]
      rw [edgeWith_key (hr _)]
      rw [keyEdge_nextUnit hp rfl (by show 1 < (BitVec.ofNat 3 (n + 1 + 1)).toNat; rw [hm]; omega)]
      show Clocked.mk _ _ = _
      rw [← hsub]
      rfl
    have l2 : keyLevels u h pins 1 ⟨s.timed (BitVec.ofNat 3 (n + 1 + 1)) 0, .key ph⟩ = [s.key] := by
      have : edgeWith u h (pins ⟨s.timed (BitVec.ofNat 3 (n + 1 + 1)) 0, .key ph⟩)
          ⟨s.timed (BitVec.ofNat 3 (n + 1 + 1)) 0, .key ph⟩ =
        ⟨s.timed (BitVec.ofNat 3 (n + 1)) (u - 1), .key ph⟩ := e2
      simp only [keyLevels, this]
      rfl
    obtain ⟨e3, l3⟩ := ih (by omega)
    rw [hs, edgesWith_add, edgesWith_add, keyLevels_add, keyLevels_add, e1, l1, e2, l2, e3, l3]
    refine ⟨rfl, ?_⟩
    rw [← List.replicate_one, List.replicate_append_replicate, List.replicate_append_replicate]

/-- An edge while the block waits for a clock line that stays low. -/
theorem edge_waits {u h : Nat} {p : Pins} {s : State} {i : Instr} {todo : List WireLine} {gap : Nat}
    (hr : p.rst = false) (hl : p.sclI = false) :
    edgeWith u h p ⟨s, .bus i todo gap true⟩ = ⟨s.dropResponse, .bus i todo gap true⟩ := by
  simp [edgeWith, busEdge, hr, hl]

/-- An edge at rest at which a legal command is offered. -/
theorem edge_accepts {u h : Nat} {i : Instr} {x : Clocked} (hx : x.atRest) (hd : decode (encode i) = some i)
    (hl : bracketLegal i x.st.brk = true) :
    edgeWith u h (offerPins (encode i) x) x = ⟨x.st.dropResponse.redraw.load i, startSeq x.st.brk i⟩ := by
  obtain ⟨st, seq⟩ := x
  obtain ⟨rfl, hc⟩ := hx
  have hc' : (State.dropResponse st).cmdReady = true := hc
  simp [edgeWith, offerPins, busPins, hc', acceptEdge, hd, hl]

end Sys2Proof.Machine
end

