-- ==== Sys2Proof/Laws/PerInstr.lean ====
section
/-! SUPPORT. Per-instruction laws of the encoding, one lemma per constructor. -/

namespace Sys2Proof.Laws

/-- The command's word lies in its row of the opcode map: `(word AND mask) = match` (R71). -/
def TableRow.Statement (i : Instr) : Prop := encode i &&& (tableRow i).2 = (tableRow i).1

theorem TableRow.start : TableRow.Statement .start := by unfold TableRow.Statement; decide

theorem TableRow.stop : TableRow.Statement .stop := by unfold TableRow.Statement; decide

/-- Masking off the argument of a word leaves its operation code. -/
theorem append_and_opMask (op : BitVec 3) (arg : Byte) : (op ++ arg : CmdWord) &&& 0x700#11 = op ++ 0#8 := by
  apply BitVec.eq_of_getLsbD_eq
  intro i hi
  have hm : ∀ j : Fin 11, (0x700#11).getLsbD j = decide (8 ≤ j.val) := by decide
  have hmi := hm ⟨i, hi⟩
  rw [BitVec.getLsbD_and, hmi, BitVec.getLsbD_append, BitVec.getLsbD_append]
  by_cases h : i < 8
  · simp [h]
  · simp [h, Nat.le_of_not_lt h]

theorem TableRow.writeByte (b : Byte) : TableRow.Statement (.writeByte b) :=
  append_and_opMask 2#3 b

theorem TableRow.readByte (sendAck : Bool) : TableRow.Statement (.readByte sendAck) := by
  unfold TableRow.Statement
  cases sendAck <;> decide

theorem TableRow.sendChar (c : Byte) : TableRow.Statement (.sendChar c) :=
  append_and_opMask 4#3 c

theorem TableRow.idle : TableRow.Statement .idle := by unfold TableRow.Statement; decide

end Sys2Proof.Laws
end

