-- ==== Sys2Proof/Laws/Encoding.lean ====
section
/-! SUPPORT. The fields of a command word. -/

namespace Sys2Proof.Laws

theorem opField_append (op : BitVec 3) (arg : Byte) : opField (op ++ arg) = op := by
  apply BitVec.eq_of_getLsbD_eq
  intro i hi
  rw [opField, BitVec.getLsbD_extractLsb', BitVec.getLsbD_append]
  simp [hi]

theorem argField_append (op : BitVec 3) (arg : Byte) : argField (op ++ arg) = arg := by
  apply BitVec.eq_of_getLsbD_eq
  intro i hi
  rw [argField, BitVec.getLsbD_extractLsb', BitVec.getLsbD_append]
  simp [hi]

theorem fields_append (w : CmdWord) : (opField w ++ argField w : CmdWord) = w := by
  apply BitVec.eq_of_getLsbD_eq
  intro i hi
  rw [BitVec.getLsbD_append]
  by_cases h : i < 8
  · simp [argField, h]
  · have h3 : i - 8 < 3 := by omega
    simp [opField, h, h3, Nat.add_sub_cancel' (Nat.le_of_not_lt h)]

theorem opField_encode (i : Instr) : opField (encode i) = opOf i := opField_append _ _

theorem argField_encode (i : Instr) : argField (encode i) = argOf i := argField_append _ _

/-- A byte whose bits 7 to 1 are 0 is its bit 0. -/
theorem eq_of_high_bits_zero {arg : Byte} (h : arg.extractLsb' 1 7 = 0#7) :
    arg = if arg.getLsbD 0 then 1#8 else 0#8 := by
  revert arg
  decide

end Sys2Proof.Laws
end

