-- ==== Sys2Proof/Laws/Step.lean ====
section
/-! SUPPORT. What a step can do, said once. -/

namespace Sys2Proof.Machine

/-- What the host still does after a step in which nothing was accepted: a delay passes, a reading is taken from the
response heard, an offer stays. -/
def pastWait (heard : Option Response) : List HostAct → List HostAct
  | .wait :: acts => acts
  | .takeReading :: acts => afterReading heard acts
  | acts => acts

/-- A step under reset. -/
theorem step_reset {s : State} {acts : List HostAct} (h : s.host = .reset :: acts) :
    step s = .next { s.sample with host := acts }.hardReset := by
  simp [step, portTask, h]

/-- A step that accepts a command. -/
theorem step_accept {s : State} {w : CmdWord} {acts : List HostAct} {i : Instr} (h : s.host = .offer w :: acts)
    (hr : s.cmdReady = true) (hd : decode w = some i) : step s = exec i { s.sample with host := acts } := by
  have hr' : s.sample.cmdReady = true := hr
  simp [step, portTask, h, hr', acceptWord, hd]

/-- A step that refuses an illegal word: ILLEGAL_CMD. -/
theorem step_illegal {s : State} {w : CmdWord} {acts : List HostAct} (h : s.host = .offer w :: acts)
    (hr : s.cmdReady = true) (hd : decode w = none) :
    step s = .next ({ s.sample with host := acts }.takeFault fltIllegalCmd) := by
  have hr' : s.sample.cmdReady = true := hr
  simp [step, portTask, h, hr', acceptWord, hd]

/-- Nothing can be accepted: no word is offered, or the block is not ready. -/
def portQuiet (s : State) : Prop := s.noResetNext ∧ ∀ w acts, s.host = .offer w :: acts → s.cmdReady = false

/-- A step in which nothing is accepted leaves the decision to `proceed`. -/
theorem portTask_quiet {s : State} (heard : Option Response) (h : portQuiet s) :
    portTask heard s = proceed { s with host := pastWait heard s.host } := by
  rcases s with ⟨brk, nack, rxb, sdaO, sclO, key, flt, busy, fl, bt, kt, time, rsp, held, host, draw, draws⟩
  rcases host with _ | ⟨a, acts⟩
  · rfl
  · cases a with
    | offer w => simp only [portTask]; rw [h.2 w acts rfl]; rfl
    | wait => rfl
    | takeReading => rfl
    | sendReading => rfl
    | reset => exact absurd rfl (h.1 acts)

/-- A step with no command in flight in which nothing is accepted. -/
theorem step_settles {s : State} (h : portQuiet s) (hb : s.busy = false) :
    step s = .next { s.sample with host := pastWait s.rsp s.host } := by
  have hq : portQuiet s.sample := h
  rw [step, portTask_quiet _ hq]
  simp [proceed, hb]

/-- A step with a command in flight: the target is asked again. -/
theorem step_held {s : State} {i : Instr} (h : s.noResetNext) (hb : s.busy = true) (hh : s.held = some i) :
    step s = exec i { s.sample with host := pastWait s.rsp s.host } := by
  have hq : portQuiet s.sample := ⟨h, fun _ _ _ => by simp [State.cmdReady, hb]⟩
  rw [step, portTask_quiet _ hq]
  simp [proceed, hb, hh]

/-- Everything a step that answers a next state can have done. -/
theorem step_cases {s t : State} (h : step s = .next t) :
    (∃ acts, s.host = .reset :: acts ∧ t = { s.sample with host := acts }.hardReset) ∨
    (∃ w acts i, s.host = .offer w :: acts ∧ s.cmdReady = true ∧ decode w = some i ∧
      exec i { s.sample with host := acts } = .next t) ∨
    (∃ w acts, s.host = .offer w :: acts ∧ s.cmdReady = true ∧ decode w = none ∧
      t = { s.sample with host := acts }.takeFault fltIllegalCmd) ∨
    (s.noResetNext ∧ s.busy = false ∧ t = { s.sample with host := pastWait s.rsp s.host }) ∨
    (∃ i, s.noResetNext ∧ s.busy = true ∧ s.held = some i ∧
      exec i { s.sample with host := pastWait s.rsp s.host } = .next t) := by
  by_cases hr : ∃ acts, s.host = .reset :: acts
  · obtain ⟨acts, ha⟩ := hr
    rw [step_reset ha] at h
    injection h with h
    exact .inl ⟨acts, ha, h.symm⟩
  have hn : s.noResetNext := fun acts ha => hr ⟨acts, ha⟩
  by_cases ho : ∃ w acts, s.host = .offer w :: acts ∧ s.cmdReady = true
  · obtain ⟨w, acts, ha, hready⟩ := ho
    cases hd : decode w with
    | some i => exact .inr (.inl ⟨w, acts, i, ha, hready, hd, (step_accept ha hready hd).symm.trans h⟩)
    | none =>
      rw [step_illegal ha hready hd] at h
      injection h with h
      exact .inr (.inr (.inl ⟨w, acts, ha, hready, hd, h.symm⟩))
  have hq : portQuiet s := ⟨hn, fun w acts ha => by
    cases hc : s.cmdReady with
    | false => rfl
    | true => exact absurd ⟨w, acts, ha, hc⟩ ho⟩
  cases hb : s.busy with
  | false =>
    rw [step_settles hq hb] at h
    injection h with h
    exact .inr (.inr (.inr (.inl ⟨hn, rfl, h.symm⟩)))
  | true =>
    cases hh : s.held with
    | some i => exact .inr (.inr (.inr (.inr ⟨i, hn, rfl, rfl, (step_held hn hb hh).symm.trans h⟩)))
    | none =>
      have hq' : portQuiet s.sample := hq
      rw [step, portTask_quiet _ hq'] at h
      simp [proceed, hb, hh] at h

end Sys2Proof.Machine
end

