-- ==== Sys2Proof/Laws/Trace.lean ====
section
/-! SUPPORT. The traces: one more bus event, more segments. -/

namespace Sys2Proof.Machine

theorem traceBracket_append_one (tr : List BusEvent) (e : BusEvent) :
    traceBracket (tr ++ [e]) = eventAfter (traceBracket tr) e := by
  simp [traceBracket]

/-- A list of segments that ends in a silence is joined to any list by appending. -/
theorem pulsesApart_append {l l' : List Segment} (h : pulsesApart l = true) (h' : pulsesApart l' = true) :
    pulsesApart (l ++ l') = true := by
  induction l with
  | nil => simpa using h'
  | cons g gs ih =>
    cases gs with
    | nil =>
      cases l' with
      | nil => simpa using h
      | cons a as =>
        have hg : g.level = false := by simpa [pulsesApart] using h
        simp [pulsesApart, hg, h']
    | cons a as =>
      have hh : (g.level && a.level) = false ∧ pulsesApart (a :: as) = true := by
        cases hg : g.level <;> cases ha : a.level <;> simp [pulsesApart, hg, ha] at h ⊢ <;> exact h
      have := ih hh.2
      simp only [List.cons_append] at this ⊢
      simp [pulsesApart, hh.1, this]

theorem elementSegments_apart (d : Bool) : pulsesApart (elementSegments d) = true := by cases d <;> rfl

theorem elements_apart (p : List Bool) : pulsesApart (p.flatMap elementSegments) = true := by
  induction p with
  | nil => rfl
  | cons d ds ih => exact pulsesApart_append (elementSegments_apart d) ih

/-- An entry's segments: at least one unit each, pulses apart. -/
theorem entrySegments_sound (e : SymbolEntry) :
    (∀ g ∈ entrySegments e, 0 < g.units) ∧ pulsesApart (entrySegments e) = true := by
  unfold entrySegments
  split
  · exact ⟨by simp, rfl⟩
  · refine ⟨fun g hg => ?_, pulsesApart_append (elements_apart _) rfl⟩
    rcases List.mem_append.1 hg with hg | hg
    · obtain ⟨d, -, hd⟩ := List.mem_flatMap.1 hg
      cases d <;> rcases (by simpa [elementSegments] using hd) with rfl | rfl <;> decide
    · rw [List.mem_singleton.1 hg]; decide

theorem foundSegments_sound (found : Option SymbolEntry) :
    (∀ g ∈ foundSegments found, 0 < g.units) ∧ pulsesApart (foundSegments found) = true := by
  cases found with
  | none => exact ⟨fun _ h => by simp [foundSegments] at h, rfl⟩
  | some e => exact entrySegments_sound e

end Sys2Proof.Machine
end

