-- ==== Sys2Proof/Laws/SymbolTable.lean ====
section
/-! SUPPORT. The Symbol Table: facts about its 38 rows, and LOOKUP as a search. -/

namespace Sys2Proof.Machine

/-- A scan that skips absent rows is a search of the rows that are present. -/
theorem scanTable_eq_find (absent : Byte → Bool) (c : Byte) (tab : List SymbolEntry) :
    scanTable absent c tab =
      (tab.filter (fun e => presentIn absent e.character)).find? (fun e => decide (e.character = c)) := by
  induction tab with
  | nil => rfl
  | cons e es ih =>
    by_cases hp : presentIn absent e.character <;> by_cases hc : e.character = c <;> simp [scanTable, hp, hc, ih]
    · subst hc; simp [hp]
    · subst hc; simp [hp]

/-- What is found is a row of the table in force, with the character asked for. -/
theorem lookupWithout_mem {absent : Byte → Bool} {c : Byte} {e : SymbolEntry} (h : lookupWithout absent c = some e) :
    e ∈ symtabWithout absent ∧ e.character = c := by
  rw [lookupWithout, scanTable_eq_find] at h
  exact ⟨List.mem_of_find?_eq_some h, by simpa using List.find?_some h⟩

theorem mem_default_of_mem_symtabWithout {absent : Byte → Bool} {e : SymbolEntry} (h : e ∈ symtabWithout absent) :
    e ∈ defaultSymtab := (List.mem_filter.1 h).1

/-- LOOKUP is the default table's entry if it is present. -/
theorem lookupWithout_eq (absent : Byte → Bool) (c : Byte) :
    lookupWithout absent c = if presentIn absent c then lookupWithout (fun _ => false) c else none := by
  unfold lookupWithout
  induction defaultSymtab with
  | nil => simp [scanTable]
  | cons e es ih =>
    have hf : ∀ c, presentIn (fun _ => false) c = true := by intro c; simp [presentIn]
    by_cases hc : e.character = c
    · subst hc
      cases hp : presentIn absent e.character <;> simp_all [scanTable]
    · simp [scanTable, hc, ih]

end Sys2Proof.Machine
end

