-- ==== Sys2Proof/Laws/HostSide.lean ====
section
/-! SUPPORT. Command lists run with given answers: one command at a time. -/

namespace Sys2Proof.Machine

/-- The response of a completed command (R72). -/
def responseOf (d : Draw) : Instr → Response
  | .writeByte _ => Response.mk 0x00#8 d.nack
  | .readByte _ => Response.mk d.data false
  | _ => Response.mk 0x00#8 false

@[simp] theorem bracketLegal_start (b : Bool) : bracketLegal .start b = true := by simp only [bracketLegal]
@[simp] theorem bracketLegal_stop (b : Bool) : bracketLegal .stop b = b := by simp only [bracketLegal]
@[simp] theorem bracketLegal_writeByte (x : Byte) (b : Bool) : bracketLegal (.writeByte x) b = b := by simp only [bracketLegal]
@[simp] theorem bracketLegal_readByte (a b : Bool) : bracketLegal (.readByte a) b = b := by simp only [bracketLegal]
@[simp] theorem bracketLegal_sendChar (c : Byte) (b : Bool) : bracketLegal (.sendChar c) b = true := by simp only [bracketLegal]
@[simp] theorem bracketLegal_idle (b : Bool) : bracketLegal .idle b = !b := by simp only [bracketLegal]

/-- The response of a command that completes. -/
theorem finished_rsp (i : Instr) (s : State) : (finished i s).rsp = some (responseOf s.draw i) := by
  cases i <;> simp [finished, finishStart, finishStop, finishWrite, finishRead, finishIdle, responseOf]

/-- A completed command does not touch `FLT`. -/
theorem finished_flt (i : Instr) (s : State) : (finished i s).flt = s.flt := by
  cases i <;> simp [finished, finishStart, finishStop, finishWrite, finishRead, finishIdle, sendFound_eq]

/-- A legal command answered by a target that does not hold the bus. -/
theorem answered_issue {i : Instr} {d : Draw} {s : State} (hl : bracketLegal i s.brk = true)
    (hs : stalls i (s.withDraw d) = false) :
    answered (issue d i s) = some (finished i (s.withDraw d), responseOf d i) := by
  have he : exec i (s.withDraw d) = .next (finished i (s.withDraw d)) := exec_finished hl hs
  simp [issue, he, answered, finished_rsp]

/-- A forbidden command gets no response. -/
theorem answered_forbidden {i : Instr} {d : Draw} {s : State} (hl : bracketLegal i s.brk = false) :
    answered (issue d i s) = none := by
  have he : exec i (s.withDraw d) = .next ((s.withDraw d).takeFault fltBusProtocol) := exec_forbidden hl
  simp [issue, he, answered]

@[simp] theorem issueAll_nil (s : State) : issueAll [] s = some (s, []) := rfl

@[simp] theorem issueMock_nil (th tl : Byte) (s : State) : issueMock th tl [] s = some (s, []) := rfl

/-- One command of a list. -/
theorem issueAll_cons {i : Instr} {d : Draw} {s : State} (cs : List (Instr × Draw)) (hl : bracketLegal i s.brk = true)
    (hh : d.hold = false) :
    issueAll ((i, d) :: cs) s =
      (issueAll cs (finished i (s.withDraw d))).map (fun p => (p.1, responseOf d i :: p.2)) := by
  simp [issueAll, answered_issue hl (d := d) (by simp [stalls, hh])]

/-- One command of a list issued against the mock sensor, which never holds the bus. -/
theorem issueMock_cons {i : Instr} {s : State} (th tl : Byte) (cs : List Instr) (hl : bracketLegal i s.brk = true) :
    issueMock th tl (i :: cs) s =
      (issueMock th tl cs (finished i (s.withDraw (mockDraw th tl s.busTrace s.draw)))).map
        (fun p => (p.1, responseOf (mockDraw th tl s.busTrace s.draw) i :: p.2)) := by
  simp [issueMock, answered_issue hl (d := mockDraw th tl s.busTrace s.draw) (by simp [stalls, mockDraw])]

end Sys2Proof.Machine
end

