-- ==== Sys2Proof/Laws/Wire.lean ====
section
/-! SUPPORT. What a listing can do on the wires: which registers it reaches, and that its levels depend on three of them. -/

namespace Sys2Proof.Machine

/-- What the wires depend on: the two drives and the shift register. -/
def State.wireView (s : State) : Bool × Bool × Byte := (s.sdaO, s.sclO, s.inFlight.shr)

/-- One line of a listing on the wire view alone. -/
theorem wireApply_view {s s' : State} (h : s.wireView = s'.wireView) (sdaI : Bool) (l : WireLine) :
    (wireApply sdaI l s).wireView = (wireApply sdaI l s').wireView := by
  simp only [State.wireView, Prod.mk.injEq] at h
  cases l <;> simp [wireApply, State.wireView, h]

/-- The levels depend on the wire view alone (R200). -/
theorem levels_view {s s' : State} (h : s.wireView = s'.wireView) (others : Levels) :
    s.levels others = s'.levels others := by
  simp only [State.wireView, Prod.mk.injEq] at h
  simp only [State.levels, h]

/-- Two states with the same wire view show the same levels and end with the same wire view. -/
theorem wire_congr (ls : List WireLine) (tgt : List Bool) {s s' : State} (h : s.wireView = s'.wireView) :
    wireLevels ls tgt s = wireLevels ls tgt s' ∧ (runWire ls tgt s).wireView = (runWire ls tgt s').wireView := by
  induction ls generalizing tgt s s' with
  | nil => exact ⟨rfl, h⟩
  | cons l ls ih =>
    have hv := wireApply_view h (s'.levels (driveAt tgt)).1 l
    obtain ⟨il, ir⟩ := ih tgt.tail hv
    simp only [wireLevels, runWire, levels_view h, levels_view hv, il, ir, and_self]

/-- A listing reaches the two drives and the registers in flight, and nothing else. -/
theorem runWire_frame (ls : List WireLine) (tgt : List Bool) (s : State) :
    ∃ (sda scl : Bool) (fl : InFlight), runWire ls tgt s = { s with sdaO := sda, sclO := scl, inFlight := fl } := by
  induction ls generalizing tgt s with
  | nil => exact ⟨s.sdaO, s.sclO, s.inFlight, rfl⟩
  | cons l ls ih =>
    obtain ⟨sda, scl, fl, h⟩ := ih tgt.tail (wireApply (s.levels (driveAt tgt)).1 l s)
    exact ⟨sda, scl, fl, by rw [runWire, h]; cases l <;> rfl⟩

/-- Watching one stretch of levels after another. -/
theorem Monitor.watch_append (m : Monitor) (l l' : List Levels) : m.watch (l ++ l') = (m.watch l).watch l' := by
  simp [Monitor.watch]

end Sys2Proof.Machine
end

