-- ==== Sys2Proof/Tests/Slice0.lean ====
section
/-! SUPPORT. Tests: expected results are taken from spec/95_test_vectors.md or worked out by hand from the rules, and a
witness for the hypotheses of every statement that has some. -/

namespace Sys2Proof.Tests

open Sys2Proof Sys2Proof.Machine

/-! ### Ill-formed terms are refused (WellFormed) -/

def entryE : SymbolEntry := { character := 0x65#8, length := 1#3, code := 1#5 }
def entrySpace : SymbolEntry := { character := 0x20#8, length := 0#3, code := 0#5 }

theorem test_wf_accepts : SymbolTable.wf [entryE, entrySpace] = true := by decide

theorem test_wf_refuses_duplicate : SymbolTable.charactersDistinct [entryE, entrySpace, entryE] = false ∧
    SymbolTable.wf [entryE, entrySpace, entryE] = false := by decide

theorem test_wf_refuses_two_sentinels :
    SymbolTable.oneSentinel [entrySpace, { character := 0x65#8, length := 0#3, code := 0#5 }] = false ∧
    SymbolTable.oneSentinel [entryE] = false := by decide

theorem test_wf_refuses_length :
    SymbolTable.lengthsInRange [entrySpace, { character := 0x65#8, length := 6#3, code := 0#5 }] = false := by decide

theorem test_wf_refuses_code :
    SymbolTable.codesFit [entrySpace, { character := 0x65#8, length := 1#3, code := 2#5 }] = false := by decide

/-- R110: a write outside a bracket, IDLE inside one. -/
theorem test_brackets_refused : CommandList.bracketsFrom false [.start, .stop, .writeByte 0x90#8] = none ∧
    CommandList.bracketsFrom false [.start, .idle] = none := by decide

/-- R51: READ_TEMP is a transaction; a last read that is acknowledged, or a read after a write address, is none. -/
theorem test_transaction : CommandList.isTransaction readTemp = true ∧
    CommandList.isTransaction [.start, .writeByte 0x90#8, .start, .writeByte 0x91#8, .readByte true, .stop] = false ∧
    CommandList.isTransaction [.start, .writeByte 0x90#8, .readByte false, .stop] = false := by decide

/-! ### Decoding: words written out bit by bit from R70 and R71 (op in bits 10 to 8, arg in bits 7 to 0) -/

theorem test_decode_start : decode 0b000_00000000#11 = some .start := by decide
theorem test_decode_stop : decode 0b001_00000000#11 = some .stop := by decide
/-- Vectors Q3 to Q5. -/
theorem test_decode_writeByte : decode 0b010_10010000#11 = some (.writeByte 0x90#8) ∧
    decode 0b010_11111111#11 = some (.writeByte 0xFF#8) ∧ decode 0b010_00000000#11 = some (.writeByte 0x00#8) := by decide
theorem test_decode_readByte : decode 0b011_00000000#11 = some (.readByte false) ∧
    decode 0b011_00000001#11 = some (.readByte true) := by decide
/-- Vectors Q8 to Q10. -/
theorem test_decode_sendChar : decode 0b100_01100101#11 = some (.sendChar 0x65#8) ∧
    decode 0b100_00100000#11 = some (.sendChar 0x20#8) ∧ decode 0b100_11111111#11 = some (.sendChar 0xFF#8) := by decide
theorem test_decode_idle : decode 0b101_00000000#11 = some .idle := by decide

/-- Vectors Q12 to Q18: illegal, with the reason. -/
theorem test_decode_illegal :
    decodeWord 0b000_00000001#11 = .error .argNotZero ∧ decodeWord 0b001_10000000#11 = .error .argNotZero ∧
    decodeWord 0b011_00000010#11 = .error .readArgReserved ∧ decodeWord 0b011_00000011#11 = .error .readArgReserved ∧
    decodeWord 0b101_00000001#11 = .error .argNotZero ∧ decodeWord 0b110_00000000#11 = .error .reservedOp ∧
    decodeWord 0b111_11111111#11 = .error .reservedOp := by decide

/-- The table's numbering is that of the command word; a number above `cmd[10]` is no command. -/
theorem test_decodeTableWord : decodeTableWord 16 0x290 = some (.writeByte 0x90#8) ∧
    decodeTableWord 16 0x465 = some (.sendChar 0x65#8) ∧ decodeTableWord 16 0x800 = none := by decide

/-- Words of programs P2 and P3. -/
theorem test_encode : encode (.writeByte 0xAA#8) = 0x2AA#11 ∧ encode (.readByte true) = 0x301#11 ∧
    encode (.sendChar 0x71#8) = 0x471#11 := by decide

/-! ### The Symbol Table -/

/-- The ROM words of R155, in index order. -/
theorem test_rom_letters_low : symtabLettersLow.map packEntry =
    [0x6142#16, 0x6287#16, 0x6385#16, 0x6463#16, 0x6521#16, 0x668D#16, 0x6761#16, 0x688F#16, 0x6943#16, 0x6A88#16,
     0x6B62#16, 0x6C8B#16, 0x6D40#16] := by decide
theorem test_rom_letters_high : symtabLettersHigh.map packEntry =
    [0x6E41#16, 0x6F60#16, 0x7089#16, 0x7182#16, 0x7265#16, 0x7367#16, 0x7420#16, 0x7566#16, 0x768E#16, 0x7764#16,
     0x7886#16, 0x7984#16, 0x7A83#16] := by decide
theorem test_rom_others : symtabOthers.map packEntry =
    [0x30A0#16, 0x31B0#16, 0x32B8#16, 0x33BC#16, 0x34BE#16, 0x35BF#16, 0x36AF#16, 0x37A7#16, 0x38A3#16, 0x39A1#16,
     0x2FAD#16, 0x2000#16] := by decide

/-- The patterns of R155 for `f`, `q` and `/`, as dits (true) and dahs in sending order, give their entries (R156). -/
theorem test_patterns :
    lookup 0x66#8 = some (entryOfPattern 0x66#8 [true, true, false, true]) ∧
    lookup 0x71#8 = some (entryOfPattern 0x71#8 [false, false, true, false]) ∧
    lookup 0x2F#8 = some (entryOfPattern 0x2F#8 [false, true, true, false, true]) := by decide

/-- The last column of R155. -/
theorem test_total_units_letters : (symtabLettersLow ++ symtabLettersHigh).map entryUnits =
    [9, 13, 15, 11, 5, 13, 13, 11, 7, 17, 13, 13, 11, 9, 15, 15, 17, 11, 9, 7, 11, 13, 13, 15, 17, 15] := by decide
theorem test_total_units_others : symtabOthers.map entryUnits =
    [23, 21, 19, 17, 15, 13, 15, 17, 19, 21, 17, 7] := by decide

/-- Vector L10. -/
theorem test_absent_letter : lookupWithout (fun c => c = 0x73#8) 0x73#8 = none ∧
    lookupWithout (fun _ => false) 0x73#8 = some { character := 0x73#8, length := 3#3, code := 7#5 } := by decide

/-- Vectors L7 and L8. -/
theorem test_not_found : lookup 0x45#8 = none ∧ lookup 0x3F#8 = none ∧ lookup 0x80#8 = none := by decide

/-! ### Small states -/

/-- A bracket is open. -/
def inBracket : State := { State.reset with brk := true, sclO := false, busTrace := [.start] }

/-- A target that answers at once. -/
def answering (nack : Bool) (data : Byte) : Draw := { drawReset with nack := nack, data := data }

/-- A target that holds the bus. -/
def holding : Draw := { drawReset with hold := true }

/-- The next state, where there is one. -/
def after (o : Host.Outcome State Fault Refusal) : Option State :=
  match o with
  | .next s => some s
  | .fault _ => none
  | .refused _ => none

/-- What changes on the bus side: `BRK`, the trace and the response. -/
def busView (o : Host.Outcome State Fault Refusal) : Option (Bool × List BusEvent × Option Response) :=
  (after o).map (fun s => (s.brk, s.busTrace, s.rsp))

/-- The waveform of a state's KEYTRACE as the vectors write it. -/
def wave (o : Host.Outcome State Fault Refusal) : Option (List Bool) := (after o).map (fun s => waveform s.keyTrace)

/-! ### One command (vectors B, M and F) -/

/-- Vectors B1 and B2. -/
theorem test_start : busView (exec .start State.reset) = some (true, [.start], some (Response.mk 0 false)) ∧
    busView (exec .start inBracket) = some (true, [.start, .repStart], some (Response.mk 0 false)) := by decide

/-- Vectors B3 and B4. -/
theorem test_stop : busView (exec .stop inBracket) = some (false, [.start, .stop], some (Response.mk 0 false)) ∧
    (after (exec .stop inBracket)).map (fun s => (s.sdaO, s.sclO)) = some (true, true) ∧
    (after (exec .stop State.reset)).map (fun s => (s.flt, s.busTrace)) = some (2#2, []) := by decide

/-- Vectors B5, B6 and B7. -/
theorem test_writeByte :
    busView (exec (.writeByte 0x90#8) (inBracket.withDraw (answering true 0x00#8))) =
      some (true, [.start, .write 0x90#8 true], some (Response.mk 0 true)) ∧
    (after (exec (.writeByte 0x90#8) (inBracket.withDraw (answering true 0x00#8)))).map (fun s => (s.nack, s.flt)) =
      some (true, 0#2) ∧
    (after (exec (.writeByte 0x90#8) State.reset)).map (fun s => (s.flt, s.rsp.isSome)) = some (2#2, false) := by decide

/-- Vector B14. -/
theorem test_writeByte_hangs :
    (after (exec (.writeByte 0x90#8) (inBracket.withDraw holding))).map
      (fun s => (s.busy, s.held, s.busTrace, s.rsp.isSome)) = some (true, some (.writeByte 0x90#8), [.start], false) := by
  decide

/-- Vectors B9 and B17. -/
theorem test_readByte :
    busView (exec (.readByte true) (inBracket.withDraw (answering false 0x05#8))) =
      some (true, [.start, .read 0x05#8 true], some (Response.mk 0x05#8 false)) ∧
    (after (exec (.readByte true) ({ inBracket with nack := true }.withDraw (answering false 0x00#8)))).map
      (fun s => (s.rxb, s.nack)) = some (0x00#8, true) := by decide

/-- Vectors B12 and B13. -/
theorem test_idle : busView (exec .idle State.reset) = some (false, [.idle], some (Response.mk 0 false)) ∧
    (after (exec .idle inBracket)).map (fun s => (s.brk, s.flt, s.sclO, s.busTrace)) =
      some (true, 2#2, false, [.start]) := by decide

/-- Vectors M3, M4 and M5: `a` is `#.###....`, the space is seven units off, `E` is nothing. -/
theorem test_sendChar :
    wave (exec (.sendChar 0x61#8) State.reset) =
      some [true, false, true, true, true, false, false, false, false] ∧
    wave (exec (.sendChar 0x20#8) State.reset) = some (List.replicate 7 false) ∧
    wave (exec (.sendChar 0x45#8) State.reset) = some [] := by decide

/-- Vector M6: the slash. -/
theorem test_sendChar_slash :
    (after (exec (.sendChar 0x2F#8) State.reset)).map (fun s => (s.keyTrace.length, s.time, pulseCount s.keyTrace)) =
      some (11, 17, 5) := by decide

/-! ### One step -/

/-- Vectors F1, F3 and F4. -/
theorem test_step_faults :
    (after (step (State.reset.offerWord 0x600#11))).map (fun s => (s.flt, s.rsp.isSome, s.cmdReady)) =
      some (1#2, false, false) ∧
    (after (step (State.reset.offerWord 0x101#11))).map State.flt = some 1#2 ∧
    (after (step ({ State.reset with flt := 2#2 }.offerWord 0x000#11))).map (fun s => (s.flt, s.host)) =
      some (2#2, [.offer 0x000#11]) := by decide

/-- Vectors F5 and X1. -/
theorem test_step_reset :
    (after (step { inBracket with flt := 1#2, rxb := 0x05#8, key := true, host := [.reset] })).map State.endState =
      some State.reset.endState := by decide

/-- A step runs the first command after reset, and a word put where the step takes its command is that command. -/
theorem test_step_runs_first :
    (after (step (State.reset.withFetchWord 16 0x500))).map State.busTrace = some [.idle] ∧
    (after (step (State.reset.withFetchWord 16 0x474))).map State.keyTrace =
      some [Segment.mk true 3, Segment.mk false 1, Segment.mk false 3] := by decide

/-! ### The host's side -/

/-- The table under R134. -/
theorem test_sext : [0x00#8, 0x01#8, 0x05#8, 0x1B#8, 0x7F#8, 0x80#8, 0x81#8, 0xFD#8, 0xFF#8].map sext8 =
    [0, 1, 5, 27, 127, -128, -127, -3, -1] := by decide

/-- R75: the two address bytes of device 0x48. -/
theorem test_addressByte : addressByte 0x48#7 false = Config.addrW ∧ addressByte 0x48#7 true = Config.addrR := by decide

/-- The source's example E8: -3 gives `tn03c`, 27 gives `tp27c`. -/
theorem test_readingText : readingText (-3) = ascii ['n', '0', '3'] ∧ readingText 27 = ascii ['p', '2', '7'] := by decide

/-- Vector S6: the words of P2 against `MockSensor(0xFD, 0x00)` give -3. -/
theorem test_readTemp_mock :
    ((issueMock 0xFD#8 0x00#8 readTemp State.reset).bind (fun p => readTempValue p.2)) = some (-3) := by decide

/-- Program P4, step 3: with 0xFD heard as the first byte read, the host's next step puts the words of `tn03c ar`, from the
44th on, in the place of the message. -/
theorem test_step_takes_reading :
    (after (step { State.reset with rsp := some (Response.mk 0xFD#8 false), host := [.takeReading, .sendReading] })).map
      (fun s => s.host.drop 44) =
      some [.offer 0x474#11, .offer 0x46E#11, .offer 0x430#11, .offer 0x433#11, .offer 0x463#11, .offer 0x420#11,
        .offer 0x461#11, .offer 0x472#11] := by decide

/-! ### The wires and the clock -/

/-- Vector W1, steps 1 and 2. -/
theorem test_wire_start : commandLevels .start drawReset State.reset = [(false, true), (false, false)] := by decide

/-- Vector W1, steps 30 to 32. -/
theorem test_wire_stop : commandLevels .stop drawReset inBracket = [(false, false), (false, true), (true, true)] := by
  decide

/-- The data line each time the clock line goes high. -/
def atRises : Bool → List Levels → List Bool
  | _, [] => []
  | before, l :: ls => if l.2 && !before then l.1 :: atRises l.2 ls else atRises l.2 ls

set_option maxRecDepth 20000 in
/-- Vectors W1 and W3: the data line at the nine clock-high levels of `WRITE_BYTE 0x90`, acknowledged and not. -/
theorem test_wire_write :
    atRises false (commandLevels (.writeByte 0x90#8) (answering false 0x00#8) inBracket) =
      [true, false, false, true, false, false, false, false, false] ∧
    atRises false (commandLevels (.writeByte 0x90#8) (answering true 0x00#8) inBracket) =
      [true, false, false, true, false, false, false, false, true] := by decide

set_option maxRecDepth 20000 in
/-- Vector W2: a target that supplies 0x05, answered with acknowledge. -/
theorem test_wire_read :
    atRises false (commandLevels (.readByte true) (answering false 0x05#8) inBracket) =
      [false, false, false, false, false, true, false, true, false] ∧
    (wireCommand (.readByte true) (answering false 0x05#8) inBracket).rxb = 0x05#8 ∧
    (wireCommand (.readByte true) (answering false 0x05#8) inBracket).sdaO = true := by decide

/-- The block at rest. -/
def atRest : Clocked := { st := State.reset, seq := .idle }

set_option maxRecDepth 20000 in
/-- R182 with two cycles a unit: `t` holds the pin for six cycles and the silence for eight. -/
theorem test_clock_key :
    keyLevels 2 1 (quietPins (true, true)) 15 (edgeWith 2 1 (offerPins 0x474#11 atRest) atRest) =
      List.replicate 6 true ++ List.replicate 9 false := by decide

/-- The clock line is low while either side holds it (R200). -/
theorem test_levels : State.reset.levels (true, false) = (true, false) ∧ inBracket.levels (true, true) = (true, false) := by
  decide

/-- R209 with three cycles a half period: STOP pulls the data line low at edge 1, raises the clock line at edge 4 and the
data line at edge 7, and completes at edge 10. -/
theorem test_clock_spacing :
    ([3, 4, 6, 7, 9, 10].map fun n =>
      let c := runCommand 1 3 .stop (answering false 0x00#8) n { st := inBracket, seq := .idle }
      ((c.st.sdaO, c.st.sclO), c.st.rsp.isSome)) =
      [((false, false), false), ((false, true), false), ((false, true), false), ((true, true), false),
       ((true, true), false), ((true, true), true)] := by decide

/-- Vector X2: reset cuts a character short with the pin going to deasserted. -/
theorem test_clock_reset :
    (edgeWith 1 1 { offerPins 0x000#11 atRest with rst := true }
      { st := { State.reset with key := true, busy := true }, seq := .key .mark }).st.endState =
      State.reset.endState := by decide

/-! ### Witnesses: concrete states and operands that meet the hypotheses of each statement -/

/-- `DecodeEncodeAgree`, `DecodedWordSelectsItsRowOnly`: words that decode, at the ends of the argument's range; the
second clause's hypothesis is met by the word's own row. -/
theorem witness_decodes : decode 0x200#11 = some (.writeByte 0x00#8) ∧ decode 0x2FF#11 = some (.writeByte 0xFF#8) ∧
    decode 0x301#11 = some (.readByte true) ∧
    (0x2FF#11) &&& (tableRow (.writeByte 0x00#8)).2 = (tableRow (.writeByte 0x00#8)).1 := by decide

/-- `IllegalWordsFault`: each kind of illegal word, at the ends of its range. -/
theorem witness_illegalWord : illegalWord 0x600#11 ∧ illegalWord 0x7FF#11 ∧ illegalWord 0x001#11 ∧
    illegalWord 0x0FF#11 ∧ illegalWord 0x101#11 ∧ illegalWord 0x501#11 ∧ illegalWord 0x5FF#11 ∧ illegalWord 0x302#11 ∧
    illegalWord 0x3FE#11 := by
  refine ⟨?_, ?_, ?_, ?_, ?_, ?_, ?_, ?_, ?_⟩ <;> unfold illegalWord <;> decide

/-- `IllegalWordsFault` and `StepRunsTheDecodedCommand`: a ready block to which a word is offered. -/
theorem witness_offered : (State.reset.offerWord 0x600#11).host = [.offer 0x600#11] ∧
    (State.reset.offerWord 0x600#11).cmdReady = true ∧ (inBracket.offerWord 0x100#11).host = [.offer 0x100#11] ∧
    (inBracket.offerWord 0x100#11).cmdReady = true ∧ decode 0x100#11 = some .stop := by decide

/-- `ResetRestoresFromAnyState`, both levels. -/
theorem witness_reset : ({ inBracket with host := [.reset] } : State).host = [.reset] ∧
    ({ offerPins 0x000#11 { st := inBracket, seq := .idle } with rst := true } : Pins).rst = true := by decide

/-- A block with `BUS_PROTOCOL` recorded and a word offered to it. -/
def faulted : State := { State.reset with flt := 2#2, host := [.offer 0x000#11] }

theorem faulted_noReset : faulted.noResetNext := by simp [State.noResetNext, faulted]

/-- `FaultedBlockAcceptsNothing`, second clause: nothing to do, a delay, a reading to take, a message without one. -/
theorem witness_quiet : ({ faulted with host := [.wait] } : State).busy = false ∧ State.reset.host = [] ∧
    State.reset.busy = false ∧ ({ State.reset with host := hostCycle.drop 6 } : State).host = .takeReading :: hostCycle.drop 7 ∧
    ({ State.reset with host := [.sendReading] } : State).host = [.sendReading] := by decide

/-- `FltIsStickyUntilReset` and `FaultedBlockAcceptsNothing`. -/
theorem witness_faulted : faulted.flt ≠ 0#2 ∧ faulted.busy = false ∧ faulted.noResetNext ∧
    (∃ t, step faulted = .next t) ∧ faulted.host = [.offer 0x000#11] ∧
    ((∃ t, step inBracket = .next t) ∧ inBracket.flt = 0#2) :=
  ⟨by decide, rfl, faulted_noReset, ⟨_, rfl⟩, rfl, ⟨_, rfl⟩, rfl⟩

/-- `BracketViolationsFault`, both clauses. -/
theorem witness_violation : State.reset.flt = 0#2 ∧ State.reset.brk = false ∧ inBracket.flt = 0#2 ∧
    inBracket.brk = true := by decide

/-- `ForbiddenCommandChangesOnlyFlt`, with and without a fault before. -/
theorem witness_forbidden : CommandList.bracketAfter .stop State.reset.brk = none ∧
    CommandList.bracketAfter (.readByte true) faulted.brk = none ∧ CommandList.bracketAfter .idle inBracket.brk = none ∧
    State.reset.flt = 0#2 ∧ faulted.flt ≠ 0#2 := by decide

/-- The invariant holds with a bracket open. -/
theorem inBracket_inv : inBracket.Inv where
  fltLegal := by simp [State.fltLegal, inBracket, State.reset]
  keyUp := rfl
  linesIdle := fun h => by simp [inBracket] at h
  busyMeansHeld := ⟨by decide, fun i h => by simp [inBracket, State.reset] at h⟩
  traceMatchesBrk := rfl
  keyTraceSound := by simp [State.keyTraceSound, inBracket, State.reset, totalUnits, pulsesApart]

/-- A command held up inside a bracket. -/
def hung (d : Draw) : State := { inBracket with busy := true, held := some .stop, draw := d }

theorem hung_inv (d : Draw) : (hung d).Inv where
  fltLegal := by simp [State.fltLegal, hung, inBracket, State.reset]
  keyUp := rfl
  linesIdle := fun h => by simp [hung, inBracket] at h
  busyMeansHeld := ⟨by simp [hung], fun i h => by
    have : i = .stop := by simpa [hung] using h.symm
    subst this
    exact ⟨rfl, rfl, rfl⟩⟩
  traceMatchesBrk := rfl
  keyTraceSound := by simp [State.keyTraceSound, hung, inBracket, State.reset, totalUnits, pulsesApart]

/-- `StepAnswersUnderInvariant` and `StepKeepsInvariant`: with a bracket open and in a hang. -/
theorem witness_inv : (inBracket.Inv ∧ ∃ t, step inBracket = .next t) ∧
    ((hung holding).Inv ∧ ∃ t, step (hung holding) = .next t) :=
  ⟨⟨inBracket_inv, _, rfl⟩, ⟨hung_inv _, _,
    (step_held (by simp [State.noResetNext, hung, inBracket, State.reset]) rfl rfl).trans (exec_eq _ _)⟩⟩

/-- `HangEndsOnlyByRelease`: the target lets go, and it does not. -/
theorem witness_hang :
    ((hung (answering false 0x00#8)).Inv ∧ (hung (answering false 0x00#8)).busy = true ∧
      (hung (answering false 0x00#8)).held = some .stop ∧ (∃ t, exec .stop (hung (answering false 0x00#8)) = .next t) ∧
      (hung (answering false 0x00#8)).draw.hold = false) ∧
    ((hung holding).Inv ∧ (hung holding).busy = true ∧ (hung holding).held = some .stop ∧
      (∃ t, exec .stop (hung holding) = .next t) ∧ (hung holding).draw.hold = true) :=
  ⟨⟨hung_inv _, rfl, rfl, ⟨_, rfl⟩, rfl⟩, ⟨hung_inv _, rfl, rfl, ⟨_, rfl⟩, rfl⟩⟩

/-- `HeldCommandAsksAgain`: nothing offered, a word offered, a delay, a reading to take, a message without one. -/
theorem witness_held : (hung holding).busy = true ∧ (hung holding).held = some .stop ∧ (hung holding).host = [] ∧
    ((hung holding).offerWord 0x000#11).host = [.offer 0x000#11] ∧
    ((hung holding).offerWord 0x000#11).busy = true ∧
    ({ hung holding with host := [.wait] } : State).host = [.wait] ∧
    ({ hung holding with host := [.takeReading] } : State).host = [.takeReading] ∧
    ({ hung holding with host := [.sendReading] } : State).host = [.sendReading] := by decide

/-- The bus commands: a bracket closed, a bracket open with a target that lets the command complete; an illegal argument. -/
theorem witness_busCommands : (0x01#8 ≠ 0x00#8) ∧ (State.reset.brk = true → State.reset.draw.hold = false) ∧
    inBracket.brk = true ∧ inBracket.draw.hold = false ∧ State.reset.brk = false ∧ State.reset.flt = 0#2 ∧
    inBracket.flt = 0#2 ∧ (0x02#8).extractLsb' 1 7 ≠ 0#7 := by decide

/-- `StalledCommandStaysInFlight`, first clause for each command that may stall, and second clause. -/
theorem witness_stall : mayStall .start = true ∧ mayStall .stop = true ∧ mayStall (.writeByte 0x90#8) = true ∧
    mayStall (.readByte true) = true ∧ (inBracket.withDraw holding).brk = true ∧
    (inBracket.withDraw holding).draw.hold = true ∧ (inBracket.withDraw holding).busy = false ∧
    (after (exec .start (inBracket.withDraw holding))).map State.busy = some true := by decide

/-- `AcknowledgeIsNeverChecked`: NACK becomes 1; a free target in a bracket. -/
theorem witness_acknowledge : inBracket.nack = false ∧
    (after (exec (.writeByte 0x90#8) (inBracket.withDraw (answering true 0x00#8)))).map State.nack = some true ∧
    inBracket.brk = true ∧ (answering true 0x00#8).hold = false := by decide

/-- `BrkChangesOnlyByStartAndStop`: a START, a STOP, a parked command and another command, each with a next state. -/
theorem witness_brk :
    (after (exec .start State.reset)).map (fun s => s.rsp.isSome) = some true ∧
    (after (exec .stop inBracket)).map (fun s => s.rsp.isSome) = some true ∧
    (after (exec .stop (inBracket.withDraw holding))).map (fun s => s.rsp.isSome) = some false ∧
    (after (exec .idle State.reset)).map (fun s => s.rsp.isSome) = some true := by decide

/-- `EachRegisterHasOneWriter`: NACK and RXB do change. No command ends with `KEY` other than 0 (R175), so the state
from which `KEY` changes is one no run reaches. -/
theorem witness_writers :
    (after (exec (.writeByte 0x90#8) (inBracket.withDraw (answering true 0x00#8)))).map State.nack ≠ some inBracket.nack ∧
    (after (exec (.readByte true) (inBracket.withDraw (answering false 0x05#8)))).map State.rxb ≠ some inBracket.rxb ∧
    (after (exec (.sendChar 0x20#8) { State.reset with key := true })).map State.key = some false := by decide

/-- `TheTwoHalvesShareNoState`. -/
theorem witness_halves : isBusCommand .start = true ∧ isBusCommand (.readByte false) = true ∧
    isBusCommand (.sendChar 0x65#8) = false := by decide

/-- `CommandFrame`: `FLT` changes, and BUSTRACE changes. -/
theorem witness_frame : (after (exec .stop State.reset)).map State.flt ≠ some State.reset.flt ∧
    (after (exec .stop inBracket)).map State.busTrace ≠ some inBracket.busTrace := by decide

/-- `LookupScansTableInForce`: a row of a table, and the ends of the ranges of characters not found. -/
theorem witness_lookup : entryE ∈ symtabWithout (fun _ => false) ∧ entryE.character = 0x65#8 ∧
    0x41 ≤ (0x41#8).toNat ∧ (0x5A#8).toNat ≤ 0x5A ∧ 0x80 ≤ (0x80#8).toNat ∧ 0x80 ≤ (0xFF#8).toNat := by decide

/-- `AbsentLettersAreTheOnlyFreedom`: a letter that may be absent and one that may not. -/
theorem witness_optional : optionalLetters.contains 0x67#8 = true ∧ optionalLetters.contains 0x7A#8 = true ∧
    optionalLetters.contains 0x61#8 = false := by decide

/-- `EntriesFollowTheirPatterns` and `CharacterDurations`: the shortest and the longest character. -/
theorem witness_entries : entryE ∈ symtabWithout (fun _ => true) ∧ entryE.length ≠ 0#3 ∧
    { character := 0x30#8, length := 5#3, code := 0#5 } ∈ symtabWithout (fun _ => true) := by decide

/-- `MicroOperationsEmitTheirSegments`: a set bit, a clear bit, the sentinel and a letter. `PulsesOfAString`: a trace
with pulses apart. -/
theorem witness_elements : (0b00010#5).getLsbD 1 = true ∧ (0b00010#5).getLsbD 0 = false ∧ entrySpace.length = 0#3 ∧
    entryE.length ≠ 0#3 ∧ pulsesApart State.reset.keyTrace = true := by decide

/-- `UnsupportedCharacterIsSkipped`. -/
theorem witness_skipped : lookup 0x45#8 = none ∧ lookup 0xFF#8 = none := by decide

/-- `SilencesStack`: a letter, then a space and a skipped character. -/
theorem witness_silences : lookup 0x65#8 = some entryE ∧ entryE.length ≠ 0#3 ∧
    ∀ g ∈ [0x20#8, 0x45#8, 0x20#8], g = 0x20#8 ∨ lookup g = none := by decide

/-- `MergedTraceIsTheWaveform`: two traces of equal waveform. -/
theorem witness_merge : (∀ g ∈ [Segment.mk false 1, Segment.mk false 3], 0 < g.units) ∧
    (∀ g ∈ [Segment.mk false 4], 0 < g.units) ∧
    waveform [Segment.mk false 1, Segment.mk false 3] = waveform [Segment.mk false 4] := by decide

/-- `ConfigureTrace`, `InitializeTrace`, `ReadTempTraceAndValue`, `ReadTempAgainstMockSensor`: a free block and a target
that never holds the bus. -/
theorem witness_sequences : State.reset.flt = 0#2 ∧ State.reset.brk = false ∧
    ∀ k : Nat, ((fun _ => answering false 0x05#8) k).hold = false := ⟨rfl, rfl, fun _ => rfl⟩

/-- `SextIsTwosComplement`: the ends of the two ranges. -/
theorem witness_sext : (0x00#8).toNat ≤ 0x7F ∧ (0x7F#8).toNat ≤ 0x7F ∧ 0x80 ≤ (0x80#8).toNat ∧
    0x80 ≤ (0xFF#8).toNat := by decide

/-- `BracketedListsNeverFault`: a list that keeps the discipline and one that does not. -/
theorem witness_lists : State.reset.flt = 0#2 ∧
    (∀ p ∈ [(Instr.start, answering false 0x00#8), (Instr.stop, answering false 0x00#8)], p.2.hold = false) ∧
    CommandList.bracketsFrom State.reset.brk [.start, .stop] = some false ∧
    CommandList.bracketsFrom State.reset.brk [.start, .stop, .stop] = none := by decide

/-- `TransactionsCloseTheirBracket`: a transaction, and INITIALIZE in its two parts. -/
theorem witness_transaction : CommandList.isTransaction [.start, .writeByte 0x90#8, .stop] = true ∧
    initializeSensor = .idle :: ([.start, .writeByte 0x90#8, .writeByte 0xEE#8, .stop] ++ configure 8#8) := by decide

/-- `MessageIsSentWhole`: the ends of the range. -/
theorem witness_message : (99 : Int).natAbs ≤ 99 ∧ (-99 : Int).natAbs ≤ 99 ∧ (0 : Int).natAbs ≤ 99 := by decide

/-- `WireLevelRefinesTransactionLevel`: each bus command in a state that permits it. -/
theorem witness_wire : isBusCommand .start = true ∧ CommandList.bracketAfter .start State.reset.brk ≠ none ∧
    CommandList.bracketAfter .idle State.reset.brk ≠ none ∧
    CommandList.bracketAfter (.writeByte 0x90#8) inBracket.brk ≠ none ∧
    CommandList.bracketAfter (.readByte true) inBracket.brk ≠ none ∧ isBusCommand (.readByte true) = true ∧
    CommandList.bracketAfter .stop inBracket.brk ≠ none ∧ isBusCommand .stop = true ∧ isBusCommand .idle = true := by
  decide

/-- `MonitorRecoversBusTrace`: a monitor on an idle bus, and one inside a bracket. -/
theorem witness_monitor :
    wireRest State.reset { before := (true, true), bits := [], seen := [] } ∧
    wireRest inBracket { before := (false, false), bits := [], seen := [.startCond] } ∧
    (∀ p ∈ [(Instr.start, drawReset), (.writeByte 0x90#8, drawReset), (.stop, drawReset)], isBusCommand p.1 = true) ∧
    CommandList.bracketsFrom State.reset.brk [.start, .writeByte 0x90#8, .stop] ≠ none :=
  ⟨⟨rfl, by simp [State.reset]⟩, ⟨rfl, by simp [inBracket]⟩, by decide, by decide⟩

/-- `ClockHeldLowNeverCompletes`: a STOP waiting for the clock line. -/
theorem witness_clockLow : (∀ x : Clocked, ((fun _ => quietPins (true, false) atRest) x : Pins).rst = false ∧
      ((fun _ => quietPins (true, false) atRest) x : Pins).sclI = false) ∧
    (Clocked.mk inBracket (.bus .stop [.sdaRelease] 0 true)).seq = .bus .stop [.sdaRelease] 0 true :=
  ⟨fun _ => ⟨rfl, rfl⟩, rfl⟩

/-- `PortIsDeafWhileNotReady`: a command in flight; a fault. -/
theorem witness_deaf : (Clocked.mk inBracket (.bus .stop [] 0 false)).seq ≠ .idle ∧
    (Clocked.mk faulted .idle).st.cmdReady = false := by decide

/-- `ClockedSendCharRefines`, `KeyHoldsForExactCycles`, `ClockedBusCommandRefines`: a block at rest, in and out of a
bracket. -/
theorem witness_clocked : 1 ≤ 1 ∧ atRest.atRest ∧ (Clocked.mk inBracket .idle).atRest ∧ isBusCommand .stop = true ∧
    CommandList.bracketAfter .stop (Clocked.mk inBracket .idle).st.brk ≠ none :=
  ⟨Nat.le_refl 1, ⟨rfl, rfl⟩, ⟨rfl, rfl⟩, rfl, by decide⟩

/-- `ClockedBusCommandRefines`, both clauses: a target that lets the command run, and one that holds the bus. -/
theorem witness_clockedHold :
    (mayStall .stop && (Clocked.mk inBracket .idle).st.brk && (answering false 0x00#8).hold) = false ∧
    (mayStall .stop && (Clocked.mk inBracket .idle).st.brk && holding.hold) = true := by decide

/-- `MonitorRecoversBusTrace`, the directed lists: the words of P2 from a closed bracket. -/
theorem witness_directed : CommandList.phasesFrom .closed readTemp ≠ none ∧
    (State.reset.brk = false ↔ BusPhase.closed = .closed) ∧ (inBracket.brk = false ↔ BusPhase.address = .closed) ∧
    CommandList.isTransaction readTemp = true := by decide

/-- `StepIgnoresOldDraw`: a host that takes no reading; an edge that begins an operation. -/
theorem witness_oldDraw : (∀ acts, State.reset.host ≠ .takeReading :: acts) ∧
    (edgeWith 1 1 (offerPins 0x500#11 atRest) ⟨State.reset, .idle⟩).seq ≠ .idle :=
  ⟨fun acts => by simp [State.reset], by decide⟩

/-- `LinesAreHalfPeriodsApart`: a bus on which the clock line is free to rise, a line to do, and none left. -/
theorem witness_lines : (∀ x : Clocked, (quietPins (true, true) x).rst = false ∧
      (x.st.sclO = true → (quietPins (true, true) x).sclI = true)) ∧
    (true = true → State.reset.sclO = true) ∧ (wireListing true .stop = .sdaLow :: [.sclRaise, .sdaRelease]) :=
  ⟨fun x => ⟨rfl, fun h => by simp [quietPins, busPins, State.levels, wiredAnd, h]⟩, fun _ => rfl, rfl⟩

/-- `EachCycleSendsItsOwnReading`: a free block, answers that never hold the bus, a reading to take with and without a
response. -/
theorem witness_cycle : State.reset.flt = 0#2 ∧ State.reset.brk = false ∧
    (∀ k j : Nat, ((fun _ _ => answering false 0xFD#8) k j : Draw).hold = false) ∧
    ({ State.reset with host := .takeReading :: hostCycle.drop 7 } : State).busy = false ∧
    ({ State.reset with rsp := some (Response.mk 0xFD#8 false) } : State).rsp = some (Response.mk 0xFD#8 false) ∧
    State.reset.rsp = none :=
  ⟨rfl, rfl, fun _ _ => rfl, rfl, rfl, rfl⟩

end Sys2Proof.Tests
end

namespace Sys2Proof.Proofs

open Sys2Proof.Machine

/-! ### The two's complement reading of a byte (R11) -/

theorem sext8_of_le_0x7F {v : Byte} (h : v.toNat ≤ 0x7F) : sext8 v = v.toNat :=
  if_pos (Nat.lt_succ_of_le h)

theorem sext8_of_0x80_le {v : Byte} (h : 0x80 ≤ v.toNat) : sext8 v = (v.toNat : Int) - 256 :=
  if_neg (Nat.not_lt.mpr h)

theorem sext8_eq_toInt (v : Byte) : sext8 v = v.toInt := by
  rw [BitVec.toInt_eq_toNat_cond]
  rcases Nat.lt_or_ge v.toNat 0x80 with hlow | hhigh
  · rw [sext8_of_le_0x7F (Nat.le_of_lt_succ hlow), if_pos (by omega)]
  · rw [sext8_of_0x80_le hhigh, if_neg (by omega)]
    rfl

theorem sext8_emod (v : Byte) : sext8 v % 256 = (v.toNat : Int) := by
  have hbyte : v.toNat < 256 := v.isLt
  rcases Nat.lt_or_ge v.toNat 0x80 with hlow | hhigh
  · rw [sext8_of_le_0x7F (Nat.le_of_lt_succ hlow)]
    omega
  · rw [sext8_of_0x80_le hhigh]
    omega

/-- Settles O47: it holds, by the two ranges of the byte. -/
theorem sextIsTwosComplement : Obligations.SextIsTwosComplement := fun v =>
  ⟨sext8_eq_toInt v, sext8_emod v, sext8_of_le_0x7F, sext8_of_0x80_le⟩

end Sys2Proof.Proofs

namespace Sys2Proof.Proofs

open Sys2Proof.Machine

/-! ### The output ports, reset, and the accepted command (R39, R41, R42) -/

theorem cmdReady_iff (s : State) : s.cmdReady = true ↔ s.busy = false ∧ s.flt = 0#2 := by
  simp [State.cmdReady]

theorem rspValid_iff (s : State) : s.rspValid = true ↔ ∃ r, s.rsp = some r :=
  Option.isSome_iff_exists

/-- Settles O6: it holds; it is the step's acceptance case. -/
theorem stepRunsTheDecodedCommand : Obligations.StepRunsTheDecodedCommand :=
  fun _ _ _ _ hoffer hready hdecode => step_accept hoffer hready hdecode

/-- Settles O7: it holds of the reset state as it is written. -/
theorem resetLeavesSpecValues : Obligations.ResetLeavesSpecValues :=
  ⟨rfl, (cmdReady_iff _).mpr ⟨rfl, rfl⟩, rfl⟩

/-- Settles O8: it holds; `key_o` is `keyLevel` at the parameter, so both of its levels cover it. -/
theorem portsShowRegisters : Obligations.PortsShowRegisters := fun s =>
  ⟨rfl, rfl, cmdReady_iff s, rspValid_iff s, rfl, rfl, rfl⟩

/-- Settles O16: it holds, field by field of the invariant. -/
theorem resetMeetsInvariant : Obligations.ResetMeetsInvariant where
  fltLegal := by simp [State.fltLegal, State.reset]
  keyUp := rfl
  linesIdle := fun _ => ⟨rfl, rfl⟩
  busyMeansHeld := ⟨by simp [State.reset], fun _ hheld => (nomatch hheld)⟩
  traceMatchesBrk := rfl
  keyTraceSound := ⟨fun _ hmem => (nomatch hmem), rfl, rfl⟩

/-! ### The step always answers (R118, R233, R245) -/

/-- `BUSY` is 1 only with a command recorded in flight: what keeps `proceed` from being stuck. -/
def busyHolds (s : State) : Prop := s.busy = true → ∃ i, s.held = some i

theorem busyHolds_of_inv {s : State} (hinv : s.Inv) : busyHolds s := fun hbusy =>
  Option.isSome_iff_exists.mp (hinv.busyMeansHeld.1.mp hbusy)

theorem acceptWord_ne_stuck (w : CmdWord) (s : State) : acceptWord w s ≠ .stuck := by
  unfold acceptWord
  split <;> simp

theorem proceed_ne_stuck {s : State} (hs : busyHolds s) : proceed s ≠ .stuck := by
  unfold proceed
  split
  next hbusy =>
    obtain ⟨i, hi⟩ := hs hbusy
    simp [hi]
  next => simp

/-- Whatever the host does next, the command port reaches a decision. -/
theorem portTask_ne_stuck {s : State} (heard : Option Response) (hs : busyHolds s) :
    portTask heard s ≠ .stuck := by
  unfold portTask
  cases s.host with
  | nil => exact proceed_ne_stuck hs
  | cons act acts =>
    cases act with
    | offer w =>
      dsimp only
      split
      · exact acceptWord_ne_stuck _ _
      · exact proceed_ne_stuck hs
    | reset => nofun
    | wait | takeReading | sendReading => exact proceed_ne_stuck hs

theorem step_answers {s : State} (hs : busyHolds s) : ∃ t, step s = .next t := by
  unfold step
  cases htask : portTask s.rsp s.sample with
  | settle t => exact ⟨t, rfl⟩
  | run i t => exact ⟨_, exec_eq i t⟩
  | stuck => exact absurd htask (portTask_ne_stuck _ hs)

/-- Settles O14: it holds, since under the invariant `BUSY` is 1 only with a command in flight. -/
theorem stepAnswersUnderInvariant : Obligations.StepAnswersUnderInvariant := fun _ hinv =>
  step_answers (busyHolds_of_inv hinv)

/-! ### `FLT` is sticky (R25, R240, R244) -/

theorem stickyFlt_of_ne {old : BitVec 2} (code : BitVec 2) (h : old ≠ 0#2) : stickyFlt old code = old :=
  if_neg h

theorem stickyFlt_zero (code : BitVec 2) : stickyFlt 0#2 code = code := rfl

/-- A command leaves `FLT` alone unless the bracket discipline forbids it. -/
theorem exec_flt {i : Instr} {s t : State} (h : exec i s = .next t) :
    t.flt = s.flt ∨ bracketLegal i s.brk = false ∧ t.flt = stickyFlt s.flt fltBusProtocol := by
  rcases exec_cases h with ⟨hlegal, rfl⟩ | ⟨-, -, -, rfl⟩ | ⟨-, -, rfl⟩
  · exact .inr ⟨hlegal, rfl⟩
  · exact .inl rfl
  · exact .inl (finished_flt i s)

/-- Everything a step can do to `FLT`: reset clears it, and otherwise it stays or takes one of the two codes. -/
theorem step_flt {s t : State} (h : step s = .next t) :
    (∃ acts, s.host = .reset :: acts) ∧ t.flt = 0#2 ∨ t.flt = s.flt ∨
    ∃ code, (code = fltIllegalCmd ∨ code = fltBusProtocol) ∧ t.flt = stickyFlt s.flt code := by
  have of_exec {i : Instr} {acts : List HostAct} (hexec : exec i { s.sample with host := acts } = .next t) :
      t.flt = s.flt ∨ ∃ code, (code = fltIllegalCmd ∨ code = fltBusProtocol) ∧ t.flt = stickyFlt s.flt code :=
    (exec_flt hexec).imp_right fun hfault => ⟨_, .inr rfl, hfault.2⟩
  rcases step_cases h with ⟨acts, hreset, rfl⟩ | ⟨_, _, _, -, -, -, hexec⟩ | ⟨_, _, -, -, -, rfl⟩ |
    ⟨-, -, rfl⟩ | ⟨_, -, -, -, hexec⟩
  · exact .inl ⟨⟨acts, hreset⟩, rfl⟩
  · exact .inr (of_exec hexec)
  · exact .inr (.inr ⟨_, .inl rfl, rfl⟩)
  · exact .inr (.inl rfl)
  · exact .inr (of_exec hexec)

/-- Settles O10: it holds, by what a step can do to `FLT`; neither code is 3. -/
theorem fltIsStickyUntilReset : Obligations.FltIsStickyUntilReset := by
  intro s t hstep
  rcases step_flt hstep with ⟨⟨acts, hreset⟩, hzero⟩ | hsame | ⟨code, hcode, hfault⟩
  · exact ⟨fun _ hno => absurd hreset (hno acts), fun _ => by simp [hzero]⟩
  · exact ⟨fun _ _ => hsame, fun hzero => by simp [hsame, hzero]⟩
  · refine ⟨fun hne _ => hfault.trans (stickyFlt_of_ne code hne), fun hzero => ?_⟩
    rw [hfault, hzero, stickyFlt_zero]
    rcases hcode with rfl | rfl <;> decide

/-! ### What a completed command does to each register -/

theorem finished_sendChar (c : Byte) (s : State) :
    finished (.sendChar c) s = (s.addSegments (charSegments c)).complete 0x00#8 false := by
  rw [charSegments_eq, ← sendFound_eq]
  rfl

theorem finished_nack {i : Instr} (s : State) (h : ∀ b, i ≠ .writeByte b) : (finished i s).nack = s.nack := by
  cases i with
  | writeByte b => exact absurd rfl (h b)
  | sendChar c => rw [finished_sendChar]; rfl
  | _ => rfl

theorem finished_rxb {i : Instr} (s : State) (h : ∀ a, i ≠ .readByte a) : (finished i s).rxb = s.rxb := by
  cases i with
  | readByte a => exact absurd rfl (h a)
  | sendChar c => rw [finished_sendChar]; rfl
  | _ => rfl

theorem finished_inputsSame (i : Instr) (s : State) : inputsSame s (finished i s) := by
  cases i with
  | sendChar c => rw [finished_sendChar]; exact ⟨rfl, rfl, rfl⟩
  | _ => exact ⟨rfl, rfl, rfl⟩

theorem finished_busTrace_grows (i : Instr) (s : State) : s.busTrace <+: (finished i s).busTrace := by
  cases i with
  | sendChar c => rw [finished_sendChar]; exact List.prefix_rfl
  | _ => exact List.prefix_append _ _

theorem finished_keyTrace_grows (i : Instr) (s : State) : s.keyTrace <+: (finished i s).keyTrace := by
  cases i with
  | sendChar c => rw [finished_sendChar]; exact List.prefix_append _ _
  | _ => exact List.prefix_rfl

theorem finished_time_le (i : Instr) (s : State) : s.time ≤ (finished i s).time := by
  cases i with
  | sendChar c => rw [finished_sendChar]; exact Nat.le_add_right _ _
  | _ => exact Nat.le_refl _

/-- A permitted `STOP` closes the bracket. -/
theorem bracketAfter_stop {b b' : Bool} (h : CommandList.bracketAfter .stop b = some b') : b' = false := by
  cases b <;> cases h
  rfl

/-- A permitted command other than `START` and `STOP` keeps the bracket state. -/
theorem bracketAfter_other {i : Instr} {b b' : Bool} (h : CommandList.bracketAfter i b = some b') (hstart : i ≠ .start)
    (hstop : i ≠ .stop) : b' = b := by
  cases i with
  | start => exact absurd rfl hstart
  | stop => exact absurd rfl hstop
  | _ => cases b <;> cases h <;> rfl

/-- A command gets no response and leaves `BRK` alone, or it completes in the bracket state the discipline gives. -/
theorem exec_brk {i : Instr} {s t : State} (h : exec i s = .next t) :
    (t.rsp = none ∧ t.brk = s.brk) ∨
    ((∃ r, t.rsp = some r) ∧ CommandList.bracketAfter i s.brk = some t.brk) := by
  rcases exec_cases h with ⟨-, rfl⟩ | ⟨-, -, -, rfl⟩ | ⟨hlegal, -, rfl⟩
  · exact .inl ⟨rfl, rfl⟩
  · exact .inl ⟨rfl, rfl⟩
  · rw [bracketLegal_eq_isSome] at hlegal
    obtain ⟨b, hb⟩ := Option.isSome_iff_exists.mp hlegal
    exact .inr ⟨⟨_, finished_rsp i s⟩, by rw [hb, finished_brk hb]⟩

/-- Settles O28: it holds, since a command that gets a response ends in the bracket state of the discipline. -/
theorem brkChangesOnlyByStartAndStop : Obligations.BrkChangesOnlyByStartAndStop := by
  intro i s t hexec
  rcases exec_brk hexec with ⟨hnone, hkept⟩ | ⟨⟨r, hsome⟩, hafter⟩
  · simp [hnone, hkept]
  · refine ⟨fun hi _ => ?_, fun hi _ => ?_, fun hnone => ?_, bracketAfter_other hafter⟩
    · subst hi
      exact (Option.some.inj hafter).symm
    · subst hi
      exact bracketAfter_stop hafter
    · cases hsome.symm.trans hnone

/-- Settles O31: it holds, end by end: a fault changes `FLT` alone, a parked command emits nothing, a completed one
emits and responds. -/
theorem commandFrame : Obligations.CommandFrame := by
  intro i s
  refine ⟨_, exec_eq i s, ?_⟩
  rcases exec_cases (exec_eq i s) with ⟨hlegal, ht⟩ | ⟨-, -, -, ht⟩ | ⟨-, -, ht⟩ <;> rw [ht]
  · refine ⟨⟨rfl, rfl, rfl⟩, List.prefix_rfl, List.prefix_rfl, Nat.le_refl _, fun _ => ?_, fun hne => absurd rfl hne⟩
    simpa [bracketLegal_eq_isSome] using hlegal
  · exact ⟨⟨rfl, rfl, rfl⟩, List.prefix_rfl, List.prefix_rfl, Nat.le_refl _, fun hne => absurd rfl hne,
      fun hne => absurd rfl hne⟩
  · exact ⟨finished_inputsSame i s, finished_busTrace_grows i s, finished_keyTrace_grows i s, finished_time_le i s,
      fun hne => absurd (finished_flt i s) hne, fun _ => by simp [finished_rsp]⟩

/-! ### Who reads and who writes which register (R22 to R24, R37) -/

/-- The state with other values in the encoder's registers. -/
def withEncoder (k : Bool) (tr : List Segment) (n : Nat) (s : State) : State :=
  { s with key := k, keyTrace := tr, time := n }

/-- The state with other values in the bus primitive's registers. -/
def withBus (brk nack : Bool) (rxb : Byte) (sda scl : Bool) (tr : List BusEvent) (s : State) : State :=
  { s with brk := brk, nack := nack, rxb := rxb, sdaO := sda, sclO := scl, busTrace := tr }

/-- The state with other values in `NACK` and `RXB`. -/
def withResults (n : Bool) (d : Byte) (s : State) : State := { s with nack := n, rxb := d }

/-- Two states with the same `BRK` and the same hold go the same way: if their three ends are related, so are the
outcomes. -/
theorem outcomeState_rel {i : Instr} {s s' : State} {R : State → State → Prop} (hbrk : s'.brk = s.brk)
    (hhold : s'.draw.hold = s.draw.hold) (hfault : R (s.takeFault fltBusProtocol) (s'.takeFault fltBusProtocol))
    (hpark : R (s.park i) (s'.park i)) (hfinished : R (finished i s) (finished i s')) :
    R (outcomeState i s) (outcomeState i s') := by
  unfold outcomeState stalls
  rw [hbrk, hhold]
  split_ifs
  · exact hpark
  · exact hfinished
  · exact hfault

/-- A register that none of a command's three ends changes is as before. -/
theorem outcomeState_keeps {α : Type} (f : State → α) {i : Instr} {s : State}
    (hfault : f (s.takeFault fltBusProtocol) = f s) (hpark : f (s.park i) = f s)
    (hfinished : f (finished i s) = f s) : f (outcomeState i s) = f s :=
  outcomeState_rel (R := fun t _ => f t = f s) rfl rfl hfault hpark hfinished

/-- A bus command commutes with a change of the encoder's registers: it neither reads nor writes them. -/
theorem outcomeState_withEncoder {i : Instr} (hbus : isBusCommand i = true) (k : Bool) (tr : List Segment) (n : Nat)
    (s : State) : outcomeState i (withEncoder k tr n s) = withEncoder k tr n (outcomeState i s) := by
  have hfinished : finished i (withEncoder k tr n s) = withEncoder k tr n (finished i s) := by
    cases i with
    | sendChar c => cases hbus
    | _ => rfl
  exact outcomeState_rel (R := fun t t' => t' = withEncoder k tr n t) rfl rfl rfl rfl hfinished

/-- `SEND_CHAR` completes in every state. -/
theorem outcomeState_sendChar (c : Byte) (s : State) :
    outcomeState (.sendChar c) s = (s.addSegments (charSegments c)).complete 0x00#8 false :=
  finished_sendChar c s

/-- `SEND_CHAR` commutes with a change of the bus primitive's registers: it neither reads nor writes them. -/
theorem outcomeState_withBus (c : Byte) (brk nack : Bool) (rxb : Byte) (sda scl : Bool) (tr : List BusEvent) (s : State) :
    outcomeState (.sendChar c) (withBus brk nack rxb sda scl tr s) =
      withBus brk nack rxb sda scl tr (outcomeState (.sendChar c) s) := by
  rw [outcomeState_sendChar, outcomeState_sendChar]
  rfl

/-- Whatever `NACK` and `RXB` held, a command ends in the same state but for these two. -/
theorem outcomeState_withResults (i : Instr) (n : Bool) (d : Byte) (s : State) :
    withResults false 0#8 (outcomeState i (withResults n d s)) = withResults false 0#8 (outcomeState i s) := by
  have hfinished : withResults false 0#8 (finished i (withResults n d s)) = withResults false 0#8 (finished i s) := by
    cases i with
    | sendChar c => rw [finished_sendChar, finished_sendChar]; rfl
    | _ => rfl
  exact outcomeState_rel (R := fun t t' => withResults false 0#8 t' = withResults false 0#8 t) rfl rfl rfl rfl hfinished

/-- Settles O27: it holds, since other values in the two registers leave the rest of the outcome as it is. -/
theorem resultRegistersAreNeverRead : Obligations.ResultRegistersAreNeverRead := by
  intro i s n d
  rw [exec_eq, exec_eq]
  exact congrArg Host.Outcome.next (outcomeState_withResults i n d s)

/-- A bus command leaves the encoder's registers: put back what they held, and the outcome is the same. -/
theorem mkeSame_outcomeState {i : Instr} (hbus : isBusCommand i = true) (s : State) : mkeSame s (outcomeState i s) := by
  have hcommute : outcomeState i s = withEncoder s.key s.keyTrace s.time (outcomeState i s) :=
    outcomeState_withEncoder hbus s.key s.keyTrace s.time s
  rw [hcommute]
  exact ⟨rfl, rfl, rfl⟩

/-- `SEND_CHAR` leaves the bus primitive's registers, for the same reason. -/
theorem btpSame_outcomeState (c : Byte) (s : State) : btpSame s (outcomeState (.sendChar c) s) := by
  have hcommute : outcomeState (.sendChar c) s =
      withBus s.brk s.nack s.rxb s.sdaO s.sclO s.busTrace (outcomeState (.sendChar c) s) :=
    outcomeState_withBus c s.brk s.nack s.rxb s.sdaO s.sclO s.busTrace s
  rw [hcommute]
  exact ⟨rfl, rfl, rfl, rfl, rfl, rfl⟩

theorem outcomeState_nack {i : Instr} (h : ∀ b, i ≠ .writeByte b) (s : State) : (outcomeState i s).nack = s.nack :=
  outcomeState_keeps State.nack rfl rfl (finished_nack s h)

theorem outcomeState_rxb {i : Instr} (h : ∀ a, i ≠ .readByte a) (s : State) : (outcomeState i s).rxb = s.rxb :=
  outcomeState_keeps State.rxb rfl rfl (finished_rxb s h)

theorem isBusCommand_of_ne_sendChar {i : Instr} (h : ∀ c, i ≠ .sendChar c) : isBusCommand i = true := by
  cases i with
  | sendChar c => exact absurd rfl (h c)
  | _ => rfl

theorem outcomeState_key {i : Instr} (h : ∀ c, i ≠ .sendChar c) (s : State) : (outcomeState i s).key = s.key :=
  (mkeSame_outcomeState (isBusCommand_of_ne_sendChar h) s).1

/-- Settles O29: it holds; any command but the writer leaves the register as it was. -/
theorem eachRegisterHasOneWriter : Obligations.EachRegisterHasOneWriter := by
  intro i s t hexec
  obtain rfl : outcomeState i s = t := by simpa [exec_eq] using hexec
  exact ⟨fun hne => by_contra fun hno => hne (outcomeState_nack (not_exists.mp hno) s),
    fun hne => by_contra fun hno => hne (outcomeState_rxb (not_exists.mp hno) s),
    fun hne => by_contra fun hno => hne (outcomeState_key (not_exists.mp hno) s)⟩

/-- Settles O30: it holds; each half commutes with a change of the other half's registers. -/
theorem theTwoHalvesShareNoState : Obligations.TheTwoHalvesShareNoState := by
  refine ⟨fun i s hbus => ⟨_, exec_eq i s, mkeSame_outcomeState hbus s, fun k tr n => ?_⟩,
    fun c s => ⟨_, exec_eq _ s, btpSame_outcomeState c s, fun brk nack rxb sda scl tr => ?_⟩⟩
  · have hexec : exec i (withEncoder k tr n s) = .next (withEncoder k tr n (outcomeState i s)) := by
      rw [exec_eq, outcomeState_withEncoder hbus]
    exact ⟨_, hexec, ⟨rfl, rfl, rfl, rfl, rfl, rfl⟩, rfl, rfl, rfl, rfl⟩
  · have hexec : exec (.sendChar c) (withBus brk nack rxb sda scl tr s) =
        .next (withBus brk nack rxb sda scl tr (outcomeState (.sendChar c) s)) := by
      rw [exec_eq, outcomeState_withBus]
    exact ⟨_, hexec, ⟨rfl, rfl, rfl⟩, rfl, rfl⟩

/-! ### The waveform of a key trace (R33) -/

theorem waveform_cons (g : Segment) (gs : List Segment) :
    waveform (g :: gs) = List.replicate g.units g.level ++ waveform gs := rfl

theorem mergeSegments_cons_congr (g : Segment) {gs gs' : List Segment} (h : mergeSegments gs = mergeSegments gs') :
    mergeSegments (g :: gs) = mergeSegments (g :: gs') := by
  simp only [mergeSegments, h]

theorem mergeSegments_cons_nil {g : Segment} {gs : List Segment} (h : mergeSegments gs = []) :
    mergeSegments (g :: gs) = [g] := by
  simp only [mergeSegments, h]

theorem mergeSegments_cons_same {g a : Segment} {gs as : List Segment} (h : mergeSegments gs = a :: as)
    (hlevel : g.level = a.level) : mergeSegments (g :: gs) = ⟨g.level, g.units + a.units⟩ :: as := by
  simp only [mergeSegments, h, if_pos hlevel]

theorem mergeSegments_cons_other {g a : Segment} {gs as : List Segment} (h : mergeSegments gs = a :: as)
    (hlevel : g.level ≠ a.level) : mergeSegments (g :: gs) = g :: a :: as := by
  simp only [mergeSegments, h, if_neg hlevel]

/-- Merging keeps the level of every time-unit. -/
theorem waveform_mergeSegments (l : List Segment) : waveform (mergeSegments l) = waveform l := by
  induction l with
  | nil => rfl
  | cons g gs ih =>
    rw [waveform_cons g gs, ← ih]
    cases hmerge : mergeSegments gs with
    | nil => rw [mergeSegments_cons_nil hmerge, waveform_cons]
    | cons a as =>
      by_cases hlevel : g.level = a.level
      · rw [mergeSegments_cons_same hmerge hlevel]
        simp only [waveform_cons, List.replicate_add, List.append_assoc, hlevel]
      · rw [mergeSegments_cons_other hmerge hlevel, waveform_cons]

/-- A segment cut in two merges to the same list. -/
theorem mergeSegments_cut (v : Bool) (m n : Nat) (l : List Segment) :
    mergeSegments (⟨v, m⟩ :: ⟨v, n⟩ :: l) = mergeSegments (⟨v, m + n⟩ :: l) := by
  cases hmerge : mergeSegments l with
  | nil =>
    have hright : mergeSegments (⟨v, n⟩ :: l) = [⟨v, n⟩] := mergeSegments_cons_nil hmerge
    rw [mergeSegments_cons_same (g := ⟨v, m⟩) hright rfl, mergeSegments_cons_nil hmerge]
  | cons a as =>
    by_cases hlevel : v = a.level
    · have hright : mergeSegments (⟨v, n⟩ :: l) = ⟨v, n + a.units⟩ :: as := mergeSegments_cons_same hmerge hlevel
      rw [mergeSegments_cons_same (g := ⟨v, m⟩) hright rfl, mergeSegments_cons_same hmerge hlevel, Nat.add_assoc]
    · have hright : mergeSegments (⟨v, n⟩ :: l) = ⟨v, n⟩ :: a :: as := mergeSegments_cons_other hmerge hlevel
      rw [mergeSegments_cons_same (g := ⟨v, m⟩) hright rfl, mergeSegments_cons_other hmerge hlevel]

/-- A level list as a key trace: one segment of one unit for each time-unit. -/
def unitSegments (w : List Bool) : List Segment := w.map (fun v => ⟨v, 1⟩)

theorem mergeSegments_units_append (v : Bool) (n : Nat) (l : List Segment) :
    mergeSegments (unitSegments (List.replicate (n + 1) v) ++ l) = mergeSegments (⟨v, n + 1⟩ :: l) := by
  induction n with
  | zero => rfl
  | succ n ih =>
    calc mergeSegments (⟨v, 1⟩ :: (unitSegments (List.replicate (n + 1) v) ++ l))
      _ = mergeSegments (⟨v, 1⟩ :: ⟨v, n + 1⟩ :: l) := mergeSegments_cons_congr _ ih
      _ = mergeSegments (⟨v, 1 + (n + 1)⟩ :: l) := mergeSegments_cut v 1 (n + 1) l
      _ = mergeSegments (⟨v, n + 1 + 1⟩ :: l) := by rw [Nat.add_comm 1]

/-- The merged list of a trace without empty segments can be read off its waveform alone. -/
theorem mergeSegments_eq_of_waveform {l : List Segment} (hpos : ∀ g ∈ l, 0 < g.units) :
    mergeSegments l = mergeSegments (unitSegments (waveform l)) := by
  induction l with
  | nil => rfl
  | cons g gs ih =>
    obtain ⟨hg, hgs⟩ := List.forall_mem_cons.mp hpos
    obtain ⟨v, n⟩ := g
    obtain ⟨n, rfl⟩ : ∃ k, n = k + 1 := Nat.exists_eq_succ_of_ne_zero (Nat.ne_of_gt hg)
    have hsplit : unitSegments (waveform (⟨v, n + 1⟩ :: gs)) =
        unitSegments (List.replicate (n + 1) v) ++ unitSegments (waveform gs) := List.map_append
    rw [hsplit, mergeSegments_units_append]
    exact mergeSegments_cons_congr _ (ih hgs)

/-- Settles O42: it holds; merging keeps the waveform, and the waveform determines the merged list. -/
theorem mergedTraceIsTheWaveform : Obligations.MergedTraceIsTheWaveform := by
  refine ⟨waveform_mergeSegments, fun l l' hl hl' => ⟨fun hwave => ?_, fun hmerge => ?_⟩⟩
  · rw [mergeSegments_eq_of_waveform hl, hwave, ← mergeSegments_eq_of_waveform hl']
  · rw [← waveform_mergeSegments l, hmerge, waveform_mergeSegments]

/-! ### The command port at a clock edge (R42) -/

theorem edgeWith_reset {u h : Nat} {p : Pins} {c : Clocked} (hrst : p.rst = true) :
    edgeWith u h p c = ⟨c.st.dropResponse.hardReset, .idle⟩ :=
  if_pos hrst

/-- An idle block that is not ready only drops its response. -/
theorem edgeWith_idle_notReady {u h : Nat} {p : Pins} {s : State} (hrst : p.rst = false) (hready : s.cmdReady = false) :
    edgeWith u h p ⟨s, .idle⟩ = ⟨s.dropResponse, .idle⟩ := by
  have hready' : s.dropResponse.cmdReady = false := hready
  simp [edgeWith, hrst, hready']

/-- Settles O55: it holds; with an operation in flight the edge reads only the line levels, and a block that is not ready
accepts nothing. -/
theorem portIsDeafWhileNotReady : Obligations.PortIsDeafWhileNotReady := by
  intro u h p c v w hdeaf
  obtain ⟨s, seq⟩ := c
  cases seq with
  | bus i todo gap waiting => rfl
  | key phase => rfl
  | idle =>
    have hready : s.cmdReady = false := hdeaf.resolve_left fun hbusy => hbusy rfl
    rcases Bool.eq_false_or_eq_true p.rst with hrst | hrst
    · exact (edgeWith_reset (p := { p with cmdValid := v, cmd := w }) hrst).trans (edgeWith_reset hrst).symm
    · exact (edgeWith_idle_notReady (p := { p with cmdValid := v, cmd := w }) hrst hready).trans
        (edgeWith_idle_notReady hrst hready).symm

end Sys2Proof.Proofs

namespace Sys2Proof.Proofs

open Sys2Proof.Machine

/-! ### What a step does not read: the old free values and the registers in flight (R34, R35, R39, R56) -/

/-- The state with other registers in flight and another rest of the host's list. -/
def withHidden (fl : InFlight) (acts : List HostAct) (s : State) : State := { s with inFlight := fl, host := acts }

/-- What the block shows after a command depends neither on the registers in flight nor on what the host does later. -/
theorem blockView_exec_withHidden (i : Instr) (fl : InFlight) (acts : List HostAct) (s : State) :
    blockView (exec i (withHidden fl acts s)) = blockView (exec i s) := by
  have hfinished : blockView (.next (finished i (withHidden fl acts s))) = blockView (.next (finished i s)) := by
    cases i with
    | sendChar c => rw [finished_sendChar, finished_sendChar]; rfl
    | _ => rfl
  rw [exec_eq, exec_eq]
  exact outcomeState_rel (R := fun t t' => blockView (.next t') = blockView (.next t)) rfl rfl rfl rfl hfinished

/-- What a step does once the command port has decided. -/
def runTask : Task → Host.Outcome State Fault Refusal
  | .settle t => .next t
  | .run i t => exec i t
  | .stuck => .fault .busyWithoutCommand

theorem step_eq_runTask (s : State) : step s = runTask (portTask s.rsp s.sample) := by
  unfold step
  cases portTask s.rsp s.sample <;> rfl

theorem blockView_acceptWord_withHidden (w : CmdWord) (fl : InFlight) (acts : List HostAct) (s : State) :
    blockView (runTask (acceptWord w (withHidden fl acts s))) = blockView (runTask (acceptWord w s)) := by
  unfold acceptWord
  cases decode w with
  | none => rfl
  | some i => exact blockView_exec_withHidden i fl acts s

theorem blockView_proceed_withHidden (fl : InFlight) (acts : List HostAct) (s : State) :
    blockView (runTask (proceed (withHidden fl acts s))) = blockView (runTask (proceed s)) := by
  have hbusy : (withHidden fl acts s).busy = s.busy := rfl
  have hheld : (withHidden fl acts s).held = s.held := rfl
  unfold proceed
  rw [hbusy, hheld]
  split
  · cases s.held with
    | none => rfl
    | some i => exact blockView_exec_withHidden i fl acts s
  · rfl

/-- What the block shows after a step depends neither on the registers in flight nor on the response the host hears. -/
theorem blockView_portTask (heard heard' : Option Response) (fl : InFlight) (s : State) :
    blockView (runTask (portTask heard' { s with inFlight := fl })) = blockView (runTask (portTask heard s)) := by
  have hproceed (acts acts' : List HostAct) : blockView (runTask (proceed (withHidden fl acts' s))) =
      blockView (runTask (proceed (withHidden s.inFlight acts s))) := by
    rw [blockView_proceed_withHidden, blockView_proceed_withHidden]
  unfold portTask
  dsimp only
  split
  next => exact hproceed s.host s.host
  next => rfl
  next acts _ => exact hproceed acts acts
  next acts _ => exact hproceed (afterReading heard acts) (afterReading heard' acts)
  next => exact hproceed s.host s.host
  next w acts _ =>
    have hready : State.cmdReady { s with inFlight := fl } = s.cmdReady := rfl
    rw [hready]
    split
    · exact (blockView_acceptWord_withHidden w fl acts s).trans
        (blockView_acceptWord_withHidden w s.inFlight acts s).symm
    · exact hproceed s.host s.host

/-- The response heard is read by a host that takes a reading, and by no other. -/
theorem portTask_heard {s : State} (hno : ∀ acts, s.host ≠ .takeReading :: acts) (heard heard' : Option Response) :
    portTask heard' s = portTask heard s := by
  unfold portTask
  cases hhost : s.host with
  | nil => rfl
  | cons act acts =>
    cases act with
    | takeReading => exact absurd hhost (hno acts)
    | _ => rfl

/-! ### What an edge with no operation in flight does not read (R34, R35) -/

/-- Two results of an edge are the same, or have no operation in flight and agree but for the registers in flight. -/
def sameButInFlight (c c' : Clocked) : Prop :=
  c' = c ∨ ∃ t fl, c = ⟨t, .idle⟩ ∧ c' = ⟨{ t with inFlight := fl }, .idle⟩

theorem acceptEdge_sameButInFlight (w : CmdWord) (s : State) (fl : InFlight) :
    sameButInFlight (acceptEdge w s) (acceptEdge w { s with inFlight := fl }) := by
  unfold acceptEdge
  cases decode w with
  | none => exact .inr ⟨_, fl, rfl, rfl⟩
  | some i =>
    dsimp only
    split
    · exact .inl rfl
    · exact .inr ⟨_, fl, rfl, rfl⟩

theorem edgeWith_idle_sameButInFlight (u h : Nat) (p : Pins) (s : State) (fl : InFlight) :
    sameButInFlight (edgeWith u h p ⟨s, .idle⟩) (edgeWith u h p ⟨{ s with inFlight := fl }, .idle⟩) := by
  have hready : State.cmdReady (State.dropResponse { s with inFlight := fl }) = s.dropResponse.cmdReady := rfl
  unfold edgeWith
  dsimp only
  rw [hready]
  split
  · exact .inl rfl
  · split
    · exact acceptEdge_sameButInFlight p.cmd s.dropResponse fl
    · exact .inr ⟨_, fl, rfl, rfl⟩

/-- Settles O15: it holds; a step draws anew before the port decides, completed and parked commands overwrite the
registers in flight, and an edge that accepts a command loads them. -/
theorem stepIgnoresOldDraw : Obligations.StepIgnoresOldDraw := by
  refine ⟨fun s d => rfl, fun s d r hno => ?_, fun s d r fl => ?_, fun u h p s fl => ?_⟩
  · have htask : portTask r s.sample = portTask s.rsp s.sample := portTask_heard (s := s.sample) hno s.rsp r
    rw [step_eq_runTask, step_eq_runTask]
    exact congrArg runTask htask
  · rw [step_eq_runTask, step_eq_runTask]
    exact blockView_portTask s.rsp r fl s.sample
  · rcases edgeWith_idle_sameButInFlight u h p s fl with hsame | ⟨t, fl', hc, hc'⟩
    · rw [hsame]
      exact ⟨rfl, rfl, rfl, fun _ => rfl⟩
    · rw [hc, hc']
      exact ⟨rfl, rfl, rfl, fun hbusy => absurd rfl hbusy⟩

/-! ### Transactions of the grammar (R51) -/

theorem bracketsFrom_readsThenStop {cs : List Instr} (h : CommandList.readsThenStop cs = true) :
    CommandList.bracketsFrom true cs = some false := by
  fun_induction CommandList.readsThenStop cs with
  | case1 is ih => exact ih h
  | case2 => rfl
  | case3 => cases h

theorem bracketsFrom_afterWriteAddress {cs : List Instr} (h : CommandList.afterWriteAddress cs = true) :
    CommandList.bracketsFrom true cs = some false := by
  fun_induction CommandList.afterWriteAddress cs with
  | case1 => rfl
  | case2 b is ih => exact ih h
  | case3 a is =>
    show CommandList.bracketsFrom true is = some false
    obtain ⟨-, hreads⟩ := Bool.and_eq_true_iff.mp h
    exact bracketsFrom_readsThenStop hreads
  | case4 => cases h

theorem bracketsFrom_isTransaction {cs : List Instr} (h : CommandList.isTransaction cs = true) :
    CommandList.bracketsFrom false cs = some false := by
  unfold CommandList.isTransaction at h
  split at h
  next a is =>
    obtain ⟨-, hafter⟩ := Bool.and_eq_true_iff.mp h
    exact bracketsFrom_afterWriteAddress hafter
  next => cases h

/-- Settles O49: it holds, by induction along the grammar; the sequences are checked against it. -/
theorem transactionsCloseTheirBracket : Obligations.TransactionsCloseTheirBracket := by
  refine ⟨fun _ => bracketsFrom_isTransaction, fun m => rfl, rfl, fun cs hcs => ?_⟩
  obtain ⟨-, rfl⟩ := List.cons.inj hcs
  exact ⟨rfl, rfl⟩

/-! ### Command lists issued against the mock sensor (R65) -/

/-- The state in which a command ends that the mock sensor answers. -/
def mockFinished (th tl : Byte) (i : Instr) (s : State) : State :=
  finished i (s.withDraw (mockDraw th tl s.busTrace s.draw))

/-- The state in which a command list ends whose commands all complete against the mock sensor. -/
def mockRun (th tl : Byte) : List Instr → State → State
  | [], s => s
  | i :: is, s => mockRun th tl is (mockFinished th tl i s)

/-- The responses of such a list. -/
def mockResponses (th tl : Byte) : List Instr → State → List Response
  | [], _ => []
  | i :: is, s => responseOf (mockDraw th tl s.busTrace s.draw) i :: mockResponses th tl is (mockFinished th tl i s)

/-- A list that keeps the bracket discipline completes against the mock sensor, ends in the bracket state the discipline
gives, and takes no fault. -/
theorem issueMock_of_bracketsFrom (th tl : Byte) {is : List Instr} {s : State} {b : Bool}
    (h : CommandList.bracketsFrom s.brk is = some b) :
    issueMock th tl is s = some (mockRun th tl is s, mockResponses th tl is s) ∧ (mockRun th tl is s).brk = b ∧
      (mockRun th tl is s).flt = s.flt := by
  induction is generalizing s with
  | nil => exact ⟨rfl, Option.some.inj h, rfl⟩
  | cons i is ih =>
    obtain ⟨b', hafter, hrest⟩ := Option.bind_eq_some_iff.mp h
    have hlegal : bracketLegal i s.brk = true := by rw [bracketLegal_eq_isSome, hafter]; rfl
    have hbrk : (mockFinished th tl i s).brk = b' := finished_brk hafter
    have hflt : (mockFinished th tl i s).flt = s.flt := finished_flt i _
    rw [← hbrk] at hrest
    obtain ⟨hissue, hend, hsame⟩ := ih hrest
    refine ⟨?_, hend, hsame.trans hflt⟩
    rw [issueMock_cons th tl is hlegal]
    exact congrArg (Option.map _) hissue

theorem mockAfter_append (tr evs : List BusEvent) : mockAfter (tr ++ evs) = evs.foldl MockState.hear (mockAfter tr) :=
  List.foldl_append

/-! ### READ_TEMP against the mock sensor (R65, R133) -/

/-- What READ_TEMP shows on the bus up to its first read. -/
def readTempAddressing : List BusEvent :=
  [.start, .write Config.addrW false, .write Config.cmdReadTemp false, .repStart, .write Config.addrR false]

theorem busTrace_mockRun_addressing (th tl : Byte) {s : State} (hbrk : s.brk = false) :
    (mockRun th tl (readTemp.take 5) s).busTrace = s.busTrace ++ readTempAddressing := by
  simp [readTemp, mockRun, mockFinished, finished, finishStart, finishWrite, mockDraw, readTempAddressing, hbrk]

/-- Whatever the mock sensor remembers, the addressing sets its pointer to the reading and begins the read-out. -/
theorem hear_readTempAddressing (m : MockState) :
    readTempAddressing.foldl MockState.hear m =
      { pointer := some Config.cmdReadTemp, writing := false, reads := some 0 } := rfl

theorem mockAfter_addressing (th tl : Byte) {s : State} (hbrk : s.brk = false) :
    mockAfter (mockRun th tl (readTemp.take 5) s).busTrace =
      { pointer := some Config.cmdReadTemp, writing := false, reads := some 0 } := by
  rw [busTrace_mockRun_addressing th tl hbrk, mockAfter_append, hear_readTempAddressing]

/-- After the addressing and one byte read the mock sensor has supplied its first byte. -/
theorem mockAfter_firstRead (th tl : Byte) {s : State} (hbrk : s.brk = false) :
    mockAfter (mockRun th tl (readTemp.take 6) s).busTrace =
      { pointer := some Config.cmdReadTemp, writing := false, reads := some 1 } := by
  have htrace : (mockRun th tl (readTemp.take 6) s).busTrace =
      (mockRun th tl (readTemp.take 5) s).busTrace ++
        [.read (mockByte th tl (mockAfter (mockRun th tl (readTemp.take 5) s).busTrace)) true] := rfl
  rw [htrace, mockAfter_append, mockAfter_addressing th tl hbrk]
  rfl

/-- READ_TEMP's sixth response brings the high byte. -/
theorem readTempValue_mockResponses (th tl : Byte) {s : State} (hbrk : s.brk = false) :
    readTempValue (mockResponses th tl readTemp s) = some (sext8 th) := by
  have hbyte : mockByte th tl (mockAfter (mockRun th tl (readTemp.take 5) s).busTrace) = th := by
    rw [mockAfter_addressing th tl hbrk]
    rfl
  exact congrArg (fun d => some (sext8 d)) hbyte

/-- READ_TEMP leaves the byte of its second read in `RXB`. -/
theorem rxb_mockRun_readTemp (th tl : Byte) {s : State} (hbrk : s.brk = false) :
    (mockRun th tl readTemp s).rxb = tl := by
  have hbyte : mockByte th tl (mockAfter (mockRun th tl (readTemp.take 6) s).busTrace) = tl := by
    rw [mockAfter_firstRead th tl hbrk]
    rfl
  exact hbyte

/-- Settles O46: it holds; READ_TEMP is a transaction, so it completes, and its addressing leaves the mock sensor about
to supply its two bytes. -/
theorem readTempAgainstMockSensor : Obligations.ReadTempAgainstMockSensor := by
  intro th tl s hflt hbrk
  have hdiscipline : CommandList.bracketsFrom s.brk readTemp = some false := by
    rw [hbrk]
    exact bracketsFrom_isTransaction rfl
  obtain ⟨hissue, hend, hsame⟩ := issueMock_of_bracketsFrom th tl hdiscipline
  exact ⟨_, _, hissue, readTempValue_mockResponses th tl hbrk, rxb_mockRun_readTemp th tl hbrk, rfl, hend,
    hsame.trans hflt⟩

end Sys2Proof.Proofs

namespace Sys2Proof.Proofs

open Sys2Proof.Machine Sys2Proof.Laws

/-! ### The command word (R70, R71, R73, R74) -/

/-- A word with the two fields of a command is that command's word (R70). -/
theorem encode_of_fields {w : CmdWord} {i : Instr} (hop : opField w = opOf i) (harg : argField w = argOf i) :
    encode i = w := by
  rw [encode, ← hop, ← harg, fields_append]

/-- What makes an answer right for the word `w`: the command's own word is `w`, or, with no command, `w` is in R74's
list. -/
def answersFor (w : CmdWord) : Except IllegalWord Instr → Prop
  | .ok i => encode i = w
  | .error _ => illegalWord w

theorem decodeNoArg_answersFor {w : CmdWord} {i : Instr} (hop : opField w = opOf i) (hi : argOf i = 0#8)
    (hill : argField w ≠ 0#8 → illegalWord w) : answersFor w (decodeNoArg i (argField w)) := by
  unfold decodeNoArg
  split
  next hzero => exact encode_of_fields hop (hzero.trans hi.symm)
  next hne => exact hill hne

theorem decodeRead_answersFor {w : CmdWord} (hop : opField w = 3#3) :
    answersFor w (decodeRead (argField w)) := by
  unfold decodeRead
  split
  next hzero => exact encode_of_fields hop (eq_of_high_bits_zero hzero)
  next hne => exact .inr (.inr (.inr (.inr ⟨congrArg BitVec.toNat hop, hne⟩)))

/-- The opcode map, row by row: what `decodeWord` answers is right for the word. -/
theorem decodeWord_answersFor (w : CmdWord) : answersFor w (decodeWord w) := by
  unfold decodeWord
  split
  next hop => exact decodeNoArg_answersFor (BitVec.eq_of_toNat_eq hop) rfl fun hne => .inr (.inl ⟨hop, hne⟩)
  next hop => exact decodeNoArg_answersFor (BitVec.eq_of_toNat_eq hop) rfl fun hne => .inr (.inr (.inl ⟨hop, hne⟩))
  next hop => exact encode_of_fields (i := .writeByte _) (BitVec.eq_of_toNat_eq hop) rfl
  next hop => exact decodeRead_answersFor (BitVec.eq_of_toNat_eq hop)
  next hop => exact encode_of_fields (i := .sendChar _) (BitVec.eq_of_toNat_eq hop) rfl
  next hop =>
    exact decodeNoArg_answersFor (BitVec.eq_of_toNat_eq hop) rfl fun hne => .inr (.inr (.inr (.inl ⟨hop, hne⟩)))
  next =>
    have hop : 6 ≤ (opField w).toNat := by
      simp only [imp_false] at *
      omega
    exact .inl hop

/-- What `decode` keeps of that answer: the command, or that there is none. -/
theorem decode_sound (w : CmdWord) :
    (∀ i, decode w = some i → encode i = w) ∧ (decode w = none → illegalWord w) := by
  have hright := decodeWord_answersFor w
  unfold decode
  generalize decodeWord w = answer at hright ⊢
  cases answer with
  | ok i => exact ⟨fun _ hsome => Option.some.inj hsome ▸ hright, nofun⟩
  | error e => exact ⟨nofun, fun _ => hright⟩

theorem encode_of_decode {w : CmdWord} {i : Instr} (h : decode w = some i) : encode i = w :=
  (decode_sound w).1 i h

theorem decode_encode (i : Instr) : decode (encode i) = some i := by
  unfold decode decodeWord
  rw [opField_encode, argField_encode]
  cases i with
  | readByte a => cases a <;> rfl
  | start | stop | writeByte | sendChar | idle => rfl

theorem not_illegalWord_encode (i : Instr) : ¬ illegalWord (encode i) := by
  unfold illegalWord
  rw [opField_encode, argField_encode]
  cases i with
  | start | stop | idle => decide
  | readByte a => cases a <;> decide
  | writeByte | sendChar => simp [opOf]

theorem decode_eq_none_iff (w : CmdWord) : decode w = none ↔ illegalWord w := by
  refine ⟨(decode_sound w).2, fun hill => ?_⟩
  cases hd : decode w with
  | none => rfl
  | some i => exact absurd (encode_of_decode hd ▸ hill) (not_illegalWord_encode i)

/-- Settles O1: it holds; a word and a command determine each other through the two fields. -/
theorem decodeEncodeAgree : Obligations.DecodeEncodeAgree :=
  ⟨decode_encode, fun _ _ => encode_of_decode⟩

/-- Settles O4: it holds; seven words are those of their commands, and six are in R74's list. -/
theorem specWordsDecodeRight : Obligations.SpecWordsDecodeRight := by
  refine ⟨decode_encode .start, decode_encode .stop, decode_encode (.writeByte 0x90#8),
    decode_encode (.readByte false), decode_encode (.readByte true), decode_encode (.sendChar 0x65#8),
    decode_encode .idle, ?_, ?_, ?_, ?_, ?_, ?_⟩ <;> decide

/-! ### The rows of the opcode map (R71) -/

theorem encode_selects_row (i : Instr) : encode i &&& (tableRow i).2 = (tableRow i).1 := by
  cases i with
  | start => exact TableRow.start
  | stop => exact TableRow.stop
  | writeByte b => exact TableRow.writeByte b
  | readByte a => exact TableRow.readByte a
  | sendChar c => exact TableRow.sendChar c
  | idle => exact TableRow.idle

/-- `match` and `mask` of an operation code's row, the operand's bits left out of the mask. -/
def rowOf (op : BitVec 3) : CmdWord × CmdWord :=
  (op ++ 0#8, if op = 3#3 then 0x7FE#11 else if op = 2#3 ∨ op = 4#3 then 0x700#11 else 0x7FF#11)

theorem tableRow_eq_rowOf (i : Instr) : tableRow i = rowOf (opOf i) := by
  cases i <;> simp [tableRow, rowOf, opOf]

/-- Every row fixes the whole operation code. -/
theorem rowOf_opBits : ∀ op : BitVec 3,
    (rowOf op).2 &&& 0x700#11 = 0x700#11 ∧ (rowOf op).1 &&& 0x700#11 = op ++ 0#8 := by
  decide

/-- A word in a command's row has that command's operation code. -/
theorem opField_of_selects_row {w : CmdWord} {i : Instr} (h : w &&& (tableRow i).2 = (tableRow i).1) :
    opField w = opOf i := by
  obtain ⟨hmask, hmatch⟩ := rowOf_opBits (opOf i)
  rw [tableRow_eq_rowOf] at h
  have hop : (opField w ++ 0#8 : CmdWord) = opOf i ++ 0#8 := by
    rw [← hmatch, ← h, BitVec.and_assoc, hmask, ← append_and_opMask _ (argField w), fields_append]
  simpa only [opField_append] using congrArg opField hop

/-- Settles O2: it holds; a word lies in its own command's row, and any row it lies in has its operation code. -/
theorem decodedWordSelectsItsRowOnly : Obligations.DecodedWordSelectsItsRowOnly := by
  intro w i j hdecode
  obtain rfl := encode_of_decode hdecode
  refine ⟨encode_selects_row i, fun hrow => ?_⟩
  rw [tableRow_eq_rowOf j, tableRow_eq_rowOf i, ← opField_of_selects_row hrow, opField_encode]

/-! ### An illegal word is accepted (R241) -/

theorem not_cmdReady_of_flt {s : State} (h : s.flt ≠ 0#2) : s.cmdReady = false :=
  Bool.eq_false_iff.mpr fun hready => h ((cmdReady_iff s).mp hready).2

/-- `raise` changes `FLT`, by its sticky rule, and no other register or trace (R240). -/
theorem faultTaken_takeFault (code : BitVec 2) (s : State) :
    faultTaken (stickyFlt s.flt code) s (s.takeFault code) :=
  ⟨rfl, rfl, ⟨rfl, rfl, rfl, rfl, rfl, rfl⟩, ⟨rfl, rfl, rfl⟩, rfl, rfl, rfl, rfl, rfl⟩

/-- Settles O3: it holds; the decoder fails on R74's list only, and an accepted word that does not decode is a fault. -/
theorem illegalWordsFault : Obligations.IllegalWordsFault := by
  refine fun w => ⟨decode_eq_none_iff w, fun hill s acts hoffer hready => ?_⟩
  obtain ⟨-, hflt⟩ := (cmdReady_iff s).mp hready
  have hcode : stickyFlt s.flt fltIllegalCmd = 1#2 := by
    rw [hflt, stickyFlt_zero]
    rfl
  have htaken : faultTaken 1#2 s.sample ({ s.sample with host := acts }.takeFault fltIllegalCmd) := by
    rw [← hcode]
    exact faultTaken_takeFault fltIllegalCmd { s.sample with host := acts }
  refine ⟨_, step_illegal hoffer hready ((decode_eq_none_iff w).mpr hill), htaken, rfl, not_cmdReady_of_flt ?_⟩
  rw [htaken.1]
  decide

/-! ### The Symbol ROM word (R77) -/

/-- The three fields stand in bits 15 to 8, 7 to 5 and 4 to 0. -/
theorem packEntry_toNat (e : SymbolEntry) :
    (packEntry e).toNat = e.character.toNat * 2 ^ 8 + e.length.toNat * 2 ^ 5 + e.code.toNat := by
  have hlength := e.length.isLt
  have hcode := e.code.isLt
  rw [packEntry, BitVec.toNat_append, BitVec.toNat_append, ← Nat.shiftLeft_add_eq_or_of_lt hlength,
    ← Nat.shiftLeft_add_eq_or_of_lt hcode, Nat.shiftLeft_eq, Nat.shiftLeft_eq]
  omega

theorem unpackEntry_packEntry (e : SymbolEntry) : unpackEntry (packEntry e) = e := by
  obtain ⟨character, length, code⟩ := e
  have hword := packEntry_toNat ⟨character, length, code⟩
  dsimp only at hword
  have hlength := length.isLt
  have hcode := code.isLt
  have hcharacter := character.isLt
  simp only [unpackEntry, SymbolEntry.mk.injEq, ← BitVec.toNat_inj, BitVec.extractLsb'_toNat, hword]
  refine ⟨?_, ?_, ?_⟩ <;> omega

theorem packEntry_unpackEntry (w : RomWord) : packEntry (unpackEntry w) = w := by
  have hw := w.isLt
  apply BitVec.eq_of_toNat_eq
  rw [packEntry_toNat]
  simp only [unpackEntry, BitVec.extractLsb'_toNat, Nat.shiftRight_eq_div_pow]
  omega

/-- Settles O5: it holds, by the arithmetic layout of the word. -/
theorem romWordRoundTrip : Obligations.RomWordRoundTrip :=
  ⟨unpackEntry_packEntry, packEntry_unpackEntry, packEntry_toNat⟩

end Sys2Proof.Proofs

namespace Sys2Proof.Proofs

open Sys2Proof.Machine Sys2Proof.Laws

/-! ### The end of a completed command (R26, R72) -/

/-- A completed command gives its response and frees the port. -/
theorem finished_respondsWith (i : Instr) (s : State) :
    respondsWith (responseOf s.draw i).data (responseOf s.draw i).nack (finished i s) := by
  cases i <;> exact ⟨rfl, rfl, rfl⟩

theorem mkeSame_finished {i : Instr} (hbus : isBusCommand i = true) (s : State) : mkeSame s (finished i s) := by
  cases i with
  | sendChar c => cases hbus
  | _ => exact ⟨rfl, rfl, rfl⟩

/-- A target that lets go holds no command up (R118). -/
theorem stalls_of_released (i : Instr) {s : State} (h : s.draw.hold = false) : stalls i s = false := by
  simp [stalls, h]

/-- Outside a bracket there is no stall point (R118). -/
theorem stalls_of_closed (i : Instr) {s : State} (h : s.brk = false) : stalls i s = false := by
  simp [stalls, h]

/-! ### The invariant, one end of a step at a time -/

/-- The invariant speaks of the end state and the command in flight alone. -/
theorem inv_of_same_endState {s t : State} (hinv : s.Inv) (hend : t.endState = s.endState) (hheld : t.held = s.held) :
    t.Inv := by
  cases s
  cases t
  obtain ⟨hflt, hkey, hlines, hbusy, htrace, hsound⟩ := hinv
  simp only [State.endState, EndState.mk.injEq] at hend hheld
  obtain ⟨rfl, rfl, rfl, rfl, rfl, rfl, rfl, rfl, rfl, rfl, rfl⟩ := hend
  subst hheld
  exact ⟨hflt, hkey, hlines, hbusy, htrace, hsound⟩

/-- A step's draws, the end of the old response and the host's next deed keep the invariant. -/
theorem inv_sample_withHost {s : State} (hinv : s.Inv) (acts : List HostAct) :
    ({ s.sample with host := acts } : State).Inv :=
  inv_of_same_endState hinv rfl rfl

theorem inv_hardReset (s : State) : s.hardReset.Inv :=
  inv_of_same_endState resetMeetsInvariant rfl rfl

theorem held_eq_none_of_inv {s : State} (hinv : s.Inv) (hbusy : s.busy = false) : s.held = none := by
  simpa [hbusy] using hinv.busyMeansHeld.1

theorem busyMeansHeld_of_free {s : State} (hbusy : s.busy = false) (hheld : s.held = none) : s.busyMeansHeld :=
  ⟨by simp [hbusy, hheld], fun i hi => by simp [hheld] at hi⟩

theorem stickyFlt_ne_three {old code : BitVec 2} (hold : old ≠ 3#2) (hcode : code ≠ 3#2) :
    stickyFlt old code ≠ 3#2 := by
  unfold stickyFlt
  split
  · exact hcode
  · exact hold

/-- A fault taken with no command in flight keeps the invariant (R240). -/
theorem inv_takeFault {s : State} {code : BitVec 2} (hinv : s.Inv) (hbusy : s.busy = false) (hcode : code ≠ 3#2) :
    (s.takeFault code).Inv where
  fltLegal := stickyFlt_ne_three hinv.fltLegal hcode
  keyUp := hinv.keyUp
  linesIdle := hinv.linesIdle
  busyMeansHeld :=
    have hheld : s.held = none := held_eq_none_of_inv hinv hbusy
    busyMeansHeld_of_free hbusy hheld
  traceMatchesBrk := hinv.traceMatchesBrk
  keyTraceSound := hinv.keyTraceSound

/-- A command held up inside a bracket keeps the invariant: its lines are free there (R27, R118). -/
theorem inv_park {i : Instr} {s : State} (hinv : s.Inv) (hmay : mayStall i = true) (hbrk : s.brk = true)
    (hflt : s.flt = 0#2) : (s.park i).Inv where
  fltLegal := hinv.fltLegal
  keyUp := hinv.keyUp
  linesIdle := fun hclosed => absurd (hbrk.symm.trans hclosed) (by decide)
  busyMeansHeld := ⟨by simp, fun j hj => by
    obtain rfl : i = j := Option.some.inj hj
    exact ⟨hmay, hbrk, hflt⟩⟩
  traceMatchesBrk := hinv.traceMatchesBrk
  keyTraceSound := hinv.keyTraceSound

/-! ### The invariant, a completed command (R27, R116, R175, R176) -/

theorem keyUp_finished (i : Instr) {s : State} (hup : s.keyUp) : (finished i s).keyUp := by
  cases i with
  | sendChar c =>
    show (sendFound (lookup c) s).key = false
    rw [sendFound_key]
    split
    · rfl
    · exact hup
  | _ => exact hup

/-- STOP and IDLE release the lines, SEND_CHAR leaves them, every other command ends inside a bracket. -/
theorem linesIdle_finished {i : Instr} {s : State} (hlegal : bracketLegal i s.brk = true) (hidle : s.linesIdle) :
    (finished i s).linesIdle := by
  cases i with
  | start => exact fun hclosed => (nomatch hclosed)
  | stop | idle => exact fun _ => ⟨rfl, rfl⟩
  | writeByte | readByte => exact fun hclosed => absurd (hlegal.symm.trans hclosed) (by decide)
  | sendChar c => rw [finished_sendChar]; exact hidle

/-- The events a completed command adds to BUSTRACE (R32, R101 to R105). -/
def eventsOf (s : State) : Instr → List BusEvent
  | .start => [if s.brk then .repStart else .start]
  | .stop => [.stop]
  | .writeByte b => [.write b s.draw.nack]
  | .readByte a => [.read s.draw.data a]
  | .sendChar _ => []
  | .idle => [.idle]

theorem finished_busTrace (i : Instr) (s : State) : (finished i s).busTrace = s.busTrace ++ eventsOf s i := by
  cases i with
  | sendChar c => rw [finished_sendChar]; exact (List.append_nil _).symm
  | _ => rfl

/-- The form of BUSTRACE (R116) and the discipline of commands (R110) are the same discipline. -/
theorem eventsOf_bracket (i : Instr) (s : State) :
    (eventsOf s i).foldl eventAfter (some s.brk) = CommandList.bracketAfter i s.brk := by
  cases hbrk : s.brk <;> cases i <;> simp [eventsOf, hbrk, eventAfter, CommandList.bracketAfter]

theorem traceMatchesBrk_finished {i : Instr} {s : State} (hlegal : bracketLegal i s.brk = true)
    (hmatch : s.traceMatchesBrk) : (finished i s).traceMatchesBrk := by
  rw [bracketLegal_eq_isSome] at hlegal
  obtain ⟨b, hafter⟩ := Option.isSome_iff_exists.mp hlegal
  calc traceBracket (finished i s).busTrace
    _ = (eventsOf s i).foldl eventAfter (traceBracket s.busTrace) := by
      rw [finished_busTrace, traceBracket, List.foldl_append, ← traceBracket]
    _ = CommandList.bracketAfter i s.brk := by rw [hmatch, eventsOf_bracket]
    _ = some (finished i s).brk := by rw [hafter, finished_brk hafter]

theorem keyTraceSound_addSegments {segs : List Segment} {s : State} (hsound : s.keyTraceSound)
    (hpos : ∀ g ∈ segs, 0 < g.units) (hapart : pulsesApart segs = true) : (s.addSegments segs).keyTraceSound := by
  obtain ⟨hpos', htime, hapart'⟩ := hsound
  refine ⟨fun g hg => (List.mem_append.mp hg).elim (hpos' g) (hpos g), ?_, pulsesApart_append hapart' hapart⟩
  rw [State.addSegments_time, State.addSegments_keyTrace, totalUnits_append, htime]

theorem keyTraceSound_finished (i : Instr) {s : State} (hsound : s.keyTraceSound) : (finished i s).keyTraceSound := by
  cases i with
  | sendChar c =>
    obtain ⟨hpos, hapart⟩ := foundSegments_sound (lookup c)
    rw [finished_sendChar, charSegments_eq]
    exact keyTraceSound_addSegments hsound hpos hapart
  | _ => exact hsound

theorem inv_finished {i : Instr} {s : State} (hinv : s.Inv) (hlegal : bracketLegal i s.brk = true) :
    (finished i s).Inv where
  fltLegal := by rw [State.fltLegal, finished_flt]; exact hinv.fltLegal
  keyUp := keyUp_finished i hinv.keyUp
  linesIdle := linesIdle_finished hlegal hinv.linesIdle
  busyMeansHeld :=
    have ⟨hbusy, hheld, _⟩ := finished_respondsWith i s
    busyMeansHeld_of_free hbusy hheld
  traceMatchesBrk := traceMatchesBrk_finished hlegal hinv.traceMatchesBrk
  keyTraceSound := keyTraceSound_finished i hinv.keyTraceSound

/-! ### The invariant, a whole step -/

theorem bracketLegal_of_mayStall {i : Instr} (h : mayStall i = true) : bracketLegal i true = true := by
  cases i with
  | sendChar | idle => cases h
  | _ => rfl

/-- A command performed with no fault keeps the invariant, if the port is free or it is the command in flight. A command
in flight waits inside a bracket, so it is not forbidden there. -/
theorem exec_keeps_inv {i : Instr} {s t : State} (hinv : s.Inv) (hflt : s.flt = 0#2)
    (hfree : s.busy = false ∨ s.held = some i) (hexec : exec i s = .next t) : t.Inv := by
  rcases exec_cases hexec with ⟨hforbidden, rfl⟩ | ⟨hmay, hbrk, -, rfl⟩ | ⟨hlegal, -, rfl⟩
  · rcases hfree with hbusy | hheld
    · exact inv_takeFault hinv hbusy (by decide)
    · obtain ⟨hmay, hbrk, -⟩ := hinv.busyMeansHeld.2 i hheld
      rw [hbrk, bracketLegal_of_mayStall hmay] at hforbidden
      cases hforbidden
  · exact inv_park hinv hmay hbrk hflt
  · exact inv_finished hinv hlegal

/-- Settles O17: it holds, by the five things a step can do; the command it performs, if any, meets no fault and is
either newly accepted by a free port or the one in flight. -/
theorem stepKeepsInvariant : Obligations.StepKeepsInvariant := by
  intro s t hinv hstep
  have hinv' := inv_sample_withHost hinv
  rcases step_cases hstep with ⟨acts, -, rfl⟩ | ⟨w, acts, i, -, hready, -, hexec⟩ | ⟨w, acts, -, hready, -, rfl⟩ |
    ⟨-, -, rfl⟩ | ⟨i, -, -, hheld, hexec⟩
  · exact inv_hardReset _
  · obtain ⟨hbusy, hflt⟩ := (cmdReady_iff s).mp hready
    exact exec_keeps_inv (hinv' acts) hflt (.inl hbusy) hexec
  · obtain ⟨hbusy, -⟩ := (cmdReady_iff s).mp hready
    exact inv_takeFault (hinv' acts) hbusy (by decide)
  · exact hinv' _
  · obtain ⟨-, -, hflt⟩ := hinv.busyMeansHeld.2 i hheld
    exact exec_keeps_inv (hinv' _) hflt (.inr hheld) hexec

/-! ### The bus commands, one at a time (R101 to R105) -/

theorem raisesIllegal_of_illegalWord {w : CmdWord} (h : illegalWord w) : raisesIllegal w := by
  refine ⟨(decode_eq_none_iff w).mpr h, fun s acts hoffer hready => ?_⟩
  obtain ⟨t, hstep, htaken, -, -⟩ := (illegalWordsFault w).2 h s acts hoffer hready
  exact ⟨t, hstep, htaken⟩

/-- START, STOP and IDLE take no argument (R74). -/
theorem raisesIllegal_argNotZero {op : BitVec 3} (hop : op.toNat = 0 ∨ op.toNat = 1 ∨ op.toNat = 5) {arg : Byte}
    (harg : arg ≠ 0#8) : raisesIllegal (op ++ arg) := by
  apply raisesIllegal_of_illegalWord
  unfold illegalWord
  rw [opField_append, argField_append]
  rcases hop with h0 | h1 | h5
  · exact .inr (.inl ⟨h0, harg⟩)
  · exact .inr (.inr (.inl ⟨h1, harg⟩))
  · exact .inr (.inr (.inr (.inl ⟨h5, harg⟩)))

/-- READ_BYTE's argument has one bit (R74). -/
theorem raisesIllegal_readArgReserved {arg : Byte} (harg : arg.extractLsb' 1 7 ≠ 0#7) :
    raisesIllegal (3#3 ++ arg) := by
  apply raisesIllegal_of_illegalWord
  unfold illegalWord
  rw [opField_append, argField_append]
  exact .inr (.inr (.inr (.inr ⟨rfl, harg⟩)))

/-- The word of WRITE_BYTE is its operation code plus the byte (R71). -/
theorem encode_writeByte (b : Byte) : encode (.writeByte b) = 0x200#11 + BitVec.setWidth 11 b := by
  have hbyte := b.isLt
  have hfields : (encode (.writeByte b)).toNat = 2 <<< 8 ||| b.toNat := BitVec.toNat_append 2#3 b
  apply BitVec.eq_of_toNat_eq
  rw [hfields, ← Nat.shiftLeft_add_eq_or_of_lt hbyte, BitVec.toNat_add, BitVec.toNat_setWidth, BitVec.toNat_ofNat]
  omega

/-- A command the bracket discipline forbids takes BUS_PROTOCOL when there is no fault yet (R242). -/
theorem exec_takes_busProtocol {i : Instr} {s : State} (hlegal : bracketLegal i s.brk = false) (hflt : s.flt = 0#2) :
    ∃ t, exec i s = .next t ∧ faultTaken 2#2 s t := by
  have htaken := faultTaken_takeFault fltBusProtocol s
  rw [hflt, stickyFlt_zero] at htaken
  exact ⟨_, exec_forbidden hlegal, htaken⟩

/-- Settles O18: it holds; a START that is not held up completes in either bracket state. -/
theorem startOpensBracket : Obligations.StartOpensBracket := by
  refine ⟨rfl, fun arg => raisesIllegal_argNotZero (by decide), fun s hreleased => ?_⟩
  have hstalls : stalls .start s = false := by
    cases hbrk : s.brk with
    | false => exact stalls_of_closed _ hbrk
    | true => exact stalls_of_released _ (hreleased hbrk)
  exact ⟨_, exec_finished rfl hstalls, rfl, finished_busTrace .start s, finished_respondsWith .start s, rfl, rfl, rfl,
    mkeSame_finished rfl s, finished_inputsSame .start s⟩

/-- Settles O19: it holds; a STOP the target lets go completes inside a bracket and is forbidden outside. -/
theorem stopClosesBracket : Obligations.StopClosesBracket := by
  refine ⟨rfl, fun arg => raisesIllegal_argNotZero (by decide), fun s hbrk hreleased => ?_,
    fun s hbrk hflt => exec_takes_busProtocol (i := .stop) hbrk hflt⟩
  exact ⟨_, exec_finished hbrk (stalls_of_released _ hreleased), rfl, rfl, rfl, finished_busTrace .stop s,
    finished_respondsWith .stop s, rfl, rfl, rfl, mkeSame_finished rfl s, finished_inputsSame .stop s⟩

/-- Settles O20: it holds; a WRITE_BYTE the target lets go completes inside a bracket and is forbidden outside. -/
theorem writeByteSendsByte : Obligations.WriteByteSendsByte := by
  refine fun b => ⟨encode_writeByte b, fun s hbrk hreleased => ?_,
    fun s hbrk hflt => exec_takes_busProtocol (i := .writeByte b) hbrk hflt⟩
  exact ⟨_, exec_finished hbrk (stalls_of_released _ hreleased), rfl, finished_busTrace (.writeByte b) s,
    finished_respondsWith (.writeByte b) s, rfl, rfl, rfl, mkeSame_finished rfl s, finished_inputsSame (.writeByte b) s⟩

/-- Settles O21: it holds; a READ_BYTE the target lets go completes inside a bracket and is forbidden outside. -/
theorem readByteReceivesByte : Obligations.ReadByteReceivesByte := by
  refine ⟨rfl, rfl, fun arg => raisesIllegal_readArgReserved, fun a => ⟨fun s hbrk hreleased => ?_,
    fun s hbrk hflt => exec_takes_busProtocol (i := .readByte a) hbrk hflt⟩⟩
  exact ⟨_, exec_finished hbrk (stalls_of_released _ hreleased), rfl, finished_busTrace (.readByte a) s,
    finished_respondsWith (.readByte a) s, rfl, rfl, rfl, mkeSame_finished rfl s, finished_inputsSame (.readByte a) s⟩

/-- Settles O22: it holds; IDLE has no stall point, completes outside a bracket and is forbidden inside. -/
theorem idleReleasesLines : Obligations.IdleReleasesLines := by
  refine ⟨rfl, fun arg => raisesIllegal_argNotZero (by decide), fun s hbrk => ?_, fun s hbrk hflt => ?_⟩
  · have hlegal : bracketLegal .idle s.brk = true := by simp [hbrk]
    exact ⟨_, exec_finished hlegal (stalls_of_closed _ hbrk), rfl, rfl, finished_busTrace .idle s,
      finished_respondsWith .idle s, rfl, rfl, rfl, rfl, mkeSame_finished rfl s, finished_inputsSame .idle s⟩
  · exact exec_takes_busProtocol (by simp [hbrk]) hflt

/-! ### Commands held up (R118, R233) -/

theorem not_cmdReady_of_busy {s : State} (h : s.busy = true) : s.cmdReady = false := by
  simp [State.cmdReady, h]

/-- Settles O23: it holds; of a command's three ends only the parked one sets `BUSY`, and it changes no more than the
registers in flight and the free lines. -/
theorem stalledCommandStaysInFlight : Obligations.StalledCommandStaysInFlight := by
  refine ⟨fun i s hmay hbrk hhold => ?_, fun i s t hexec hfree hbusy => ?_⟩
  · exact ⟨s.park i, exec_stalled hmay hbrk hhold, rfl, rfl, rfl, not_cmdReady_of_busy rfl, rfl, rfl, rfl, rfl, rfl,
      rfl, ⟨rfl, rfl, rfl⟩, ⟨rfl, rfl, rfl⟩⟩
  · rcases exec_cases hexec with ⟨-, rfl⟩ | ⟨hmay, hbrk, hhold, -⟩ | ⟨-, -, rfl⟩
    · cases hfree.symm.trans hbusy
    · exact ⟨hmay, hbrk, hhold⟩
    · obtain ⟨hdone, -, -⟩ := finished_respondsWith i s
      cases hdone.symm.trans hbusy

/-- With a command in flight the target is asked again, unless the host asserts reset. -/
theorem step_held_of_host {s : State} {i : Instr} {acts rest : List HostAct} (hbusy : s.busy = true)
    (hheld : s.held = some i) (hhost : s.host = acts) (hno : ∀ more, acts ≠ .reset :: more)
    (hpast : pastWait s.rsp acts = rest) : step s = exec i { s.sample with host := rest } := by
  subst hhost hpast
  exact step_held hno hbusy hheld

/-- If nothing the host waits for passes in that step, its list stays. -/
theorem step_held_of_host_stays {s : State} {i : Instr} {acts : List HostAct} (hbusy : s.busy = true)
    (hheld : s.held = some i) (hhost : s.host = acts) (hno : ∀ more, acts ≠ .reset :: more)
    (hstays : pastWait s.rsp acts = acts) : step s = exec i s.sample := by
  subst hhost
  exact step_held_of_host hbusy hheld rfl hno hstays

/-- Settles O24: it holds; a delay and a reading pass from the host's list, and an empty list, an offer and a message
without its reading stay. -/
theorem heldCommandAsksAgain : Obligations.HeldCommandAsksAgain := by
  refine fun s i hbusy hheld => ⟨?_, fun acts hwait => ?_, fun acts htake => ?_, fun acts hsend => ?_⟩
  · rintro (hnil | ⟨w, acts, hoffer⟩)
    · exact step_held_of_host_stays hbusy hheld hnil nofun rfl
    · exact step_held_of_host_stays hbusy hheld hoffer nofun rfl
  · exact step_held_of_host hbusy hheld hwait nofun rfl
  · exact step_held_of_host hbusy hheld htake nofun rfl
  · exact step_held_of_host_stays hbusy hheld hsend nofun rfl

/-! ### Command lists and the bracket discipline (R110, R140) -/

/-- A list that begins with a forbidden command does not get its responses. -/
theorem issueAll_cons_forbidden {i : Instr} {d : Draw} {s : State} (cs : List (Instr × Draw))
    (h : bracketLegal i s.brk = false) : issueAll ((i, d) :: cs) s = none := by
  simp [issueAll, answered_forbidden h]

/-- A list that begins with a permitted command goes on from the bracket state the discipline gives, with one more
response and the same `FLT`. -/
theorem issueAll_cons_permitted {i : Instr} {d : Draw} {s : State} {b : Bool} (cs : List (Instr × Draw))
    (hhold : d.hold = false) (hafter : CommandList.bracketAfter i s.brk = some b) :
    ∃ u r, u.brk = b ∧ u.flt = s.flt ∧ issueAll ((i, d) :: cs) s = (issueAll cs u).map (fun p => (p.1, r :: p.2)) := by
  have hlegal : bracketLegal i s.brk = true := by rw [bracketLegal_eq_isSome, hafter]; rfl
  exact ⟨finished i (s.withDraw d), _, finished_brk hafter, finished_flt i _, issueAll_cons cs hlegal hhold⟩

/-- A list that keeps the discipline gets a response to every command, ends in the bracket state the discipline gives,
and leaves `FLT` alone. -/
theorem issueAll_of_bracketsFrom {cs : List (Instr × Draw)} {s : State} {b : Bool}
    (hreleased : ∀ p ∈ cs, p.2.hold = false)
    (hkeeps : CommandList.bracketsFrom s.brk (cs.map Prod.fst) = some b) :
    ∃ t rs, issueAll cs s = some (t, rs) ∧ t.brk = b ∧ t.flt = s.flt ∧ rs.length = cs.length := by
  induction cs generalizing s with
  | nil => exact ⟨s, [], rfl, Option.some.inj hkeeps, rfl, rfl⟩
  | cons c cs ih =>
    obtain ⟨hhold, hreleased⟩ := List.forall_mem_cons.mp hreleased
    obtain ⟨b', hafter, hrest⟩ := Option.bind_eq_some_iff.mp hkeeps
    obtain ⟨u, r, rfl, hsame, hcons⟩ := issueAll_cons_permitted cs hhold hafter
    obtain ⟨t, rs, hissue, hend, hflt, hlength⟩ := ih hreleased hrest
    exact ⟨t, r :: rs, by rw [hcons, hissue]; rfl, hend, hflt.trans hsame, congrArg (· + 1) hlength⟩

/-- A list that breaks the discipline does not get all its responses: the first forbidden command gets none. -/
theorem issueAll_eq_none_of_bracketsFrom {cs : List (Instr × Draw)} {s : State}
    (hreleased : ∀ p ∈ cs, p.2.hold = false)
    (hbreaks : CommandList.bracketsFrom s.brk (cs.map Prod.fst) = none) : issueAll cs s = none := by
  induction cs generalizing s with
  | nil => cases hbreaks
  | cons c cs ih =>
    obtain ⟨hhold, hreleased⟩ := List.forall_mem_cons.mp hreleased
    cases hafter : CommandList.bracketAfter c.1 s.brk with
    | none => exact issueAll_cons_forbidden cs (by rw [bracketLegal_eq_isSome, hafter]; rfl)
    | some b =>
      have hrest := Option.bind_eq_none_iff.mp hbreaks b hafter
      obtain ⟨u, r, rfl, -, hcons⟩ := issueAll_cons_permitted cs hhold hafter
      rw [hcons, ih hreleased hrest]
      rfl

/-- Settles O48: it holds, by induction on the list, one command's end being the next one's bracket state. -/
theorem bracketedListsNeverFault : Obligations.BracketedListsNeverFault := by
  refine fun cs s hflt hreleased => ⟨fun b hkeeps => ?_, issueAll_eq_none_of_bracketsFrom hreleased⟩
  obtain ⟨t, rs, hissue, hend, hsame, hlength⟩ := issueAll_of_bracketsFrom hreleased hkeeps
  exact ⟨t, rs, hissue, hend, hsame.trans hflt, hlength⟩

end Sys2Proof.Proofs

namespace Sys2Proof.Proofs

open Sys2Proof.Machine

/-! ### Command lists with the target's answers, as runs of completed commands -/

/-- The state in which a command list ends whose commands all complete, the `k`-th answered by `ds k`. -/
def answeredRun : (Nat → Draw) → List Instr → State → State
  | _, [], s => s
  | ds, i :: is, s => answeredRun (fun k => ds (k + 1)) is (finished i (s.withDraw (ds 0)))

/-- The responses of such a list. -/
def answeredResponses : (Nat → Draw) → List Instr → List Response
  | _, [] => []
  | ds, i :: is => responseOf (ds 0) i :: answeredResponses (fun k => ds (k + 1)) is

/-- The events such a list adds to BUSTRACE. -/
def answeredEvents : (Nat → Draw) → List Instr → State → List BusEvent
  | _, [], _ => []
  | ds, i :: is, s =>
    eventsOf (s.withDraw (ds 0)) i ++ answeredEvents (fun k => ds (k + 1)) is (finished i (s.withDraw (ds 0)))

/-- A list that keeps the bracket discipline completes against a target that does not hold the bus, and ends in the
bracket state the discipline gives. -/
theorem issueAll_withAnswers {ds : Nat → Draw} {is : List Instr} {s : State} {b : Bool}
    (hreleased : ∀ k, (ds k).hold = false) (hkeeps : CommandList.bracketsFrom s.brk is = some b) :
    issueAll (withAnswers ds is) s = some (answeredRun ds is s, answeredResponses ds is) ∧
      (answeredRun ds is s).brk = b := by
  induction is generalizing ds s with
  | nil => exact ⟨rfl, Option.some.inj hkeeps⟩
  | cons i is ih =>
    obtain ⟨b', hafter, hrest⟩ := Option.bind_eq_some_iff.mp hkeeps
    have hlegal : bracketLegal i s.brk = true := by rw [bracketLegal_eq_isSome, hafter]; rfl
    have hbrk : (finished i (s.withDraw (ds 0))).brk = b' := finished_brk hafter
    rw [← hbrk] at hrest
    obtain ⟨hissue, hend⟩ := ih (ds := fun k => ds (k + 1)) (fun k => hreleased (k + 1)) hrest
    refine ⟨?_, hend⟩
    rw [withAnswers, issueAll_cons _ hlegal (hreleased 0), hissue]
    rfl

theorem busTrace_answeredRun (ds : Nat → Draw) (is : List Instr) (s : State) :
    (answeredRun ds is s).busTrace = s.busTrace ++ answeredEvents ds is s := by
  induction is generalizing ds s with
  | nil => exact (List.append_nil _).symm
  | cons i is ih => rw [answeredRun, ih, finished_busTrace, answeredEvents, List.append_assoc]; rfl

/-- What no command of a list changes, the list does not change. -/
theorem answeredRun_keeps {α : Type} (f : State → α) (hdraw : ∀ d u, f (u.withDraw d) = f u) {is : List Instr}
    (hkeeps : ∀ i ∈ is, ∀ u, f (finished i u) = f u) (ds : Nat → Draw) (s : State) :
    f (answeredRun ds is s) = f s := by
  induction is generalizing ds s with
  | nil => rfl
  | cons i is ih =>
    obtain ⟨hi, his⟩ := List.forall_mem_cons.mp hkeeps
    rw [answeredRun, ih his, hi, hdraw]

theorem flt_answeredRun (ds : Nat → Draw) (is : List Instr) (s : State) : (answeredRun ds is s).flt = s.flt :=
  answeredRun_keeps State.flt (fun _ _ => rfl) (fun i _ => finished_flt i) ds s

/-- A list without a `READ_BYTE` leaves `RXB`. -/
theorem rxb_answeredRun {is : List Instr} (hnoRead : ∀ a, .readByte a ∉ is) (ds : Nat → Draw) (s : State) :
    (answeredRun ds is s).rxb = s.rxb :=
  answeredRun_keeps State.rxb (fun _ _ => rfl)
    (fun _ hi u => finished_rxb u fun a ha => hnoRead a (ha ▸ hi)) ds s

/-- A list of bus commands leaves the encoder's registers. -/
theorem mkeSame_answeredRun {is : List Instr} (hbus : ∀ i ∈ is, isBusCommand i = true) (ds : Nat → Draw) (s : State) :
    mkeSame s (answeredRun ds is s) := by
  induction is generalizing ds s with
  | nil => exact ⟨rfl, rfl, rfl⟩
  | cons i is ih =>
    obtain ⟨hi, his⟩ := List.forall_mem_cons.mp hbus
    obtain ⟨hkey, htrace, htime⟩ := mkeSame_finished hi (s.withDraw (ds 0))
    obtain ⟨hkey', htrace', htime'⟩ := ih his (fun k => ds (k + 1)) (finished i (s.withDraw (ds 0)))
    exact ⟨hkey'.trans hkey, htrace'.trans htrace, htime'.trans htime⟩

/-! ### The sensor's sequences (R131 to R134) -/

/-- Settles O43: it holds; CONFIGURE keeps the discipline in either bracket state, and its first START tells which by
its event. -/
theorem configureTrace : Obligations.ConfigureTrace := by
  refine ⟨fun m => rfl, fun m ds s hflt hreleased => ?_⟩
  have hdiscipline : CommandList.bracketsFrom s.brk (configure m) = some false := rfl
  have hevents : answeredEvents ds (configure m) s = [if s.brk then BusEvent.repStart else BusEvent.start,
      .write 0x90#8 (ds 1).nack, .write 0xAC#8 (ds 2).nack, .write m (ds 3).nack, .stop] := rfl
  have hbus : ∀ i ∈ configure m, isBusCommand i = true := by simp [configure, isBusCommand]
  obtain ⟨hissue, hend⟩ := issueAll_withAnswers hreleased hdiscipline
  exact ⟨_, _, hissue, by rw [busTrace_answeredRun, hevents], hend, (flt_answeredRun _ _ s).trans hflt,
    rxb_answeredRun (by simp [configure]) ds s, mkeSame_answeredRun hbus ds s⟩

/-- Settles O44: it holds; INITIALIZE keeps the discipline from a closed bracket, so both its starts open one. -/
theorem initializeTrace : Obligations.InitializeTrace := by
  refine ⟨rfl, fun ds s hflt hbrk hreleased => ?_⟩
  have hdiscipline : CommandList.bracketsFrom s.brk initializeSensor = some false := by rw [hbrk]; rfl
  have hevents : answeredEvents ds initializeSensor s = [BusEvent.idle, if s.brk then .repStart else .start,
      .write 0x90#8 (ds 2).nack, .write 0xEE#8 (ds 3).nack, .stop, .start, .write 0x90#8 (ds 6).nack,
      .write 0xAC#8 (ds 7).nack, .write 0x08#8 (ds 8).nack, .stop] := rfl
  obtain ⟨hissue, hend⟩ := issueAll_withAnswers hreleased hdiscipline
  refine ⟨_, _, hissue, ?_, hend, (flt_answeredRun _ _ s).trans hflt, rxb_answeredRun (by decide) ds s,
    mkeSame_answeredRun (by decide) ds s⟩
  rw [busTrace_answeredRun, hevents, hbrk]
  rfl

/-- `sext_8` is a signed byte (R134). -/
theorem sext8_range (v : Byte) : -128 ≤ sext8 v ∧ sext8 v ≤ 127 := by
  rw [sext8_eq_toInt]
  exact ⟨BitVec.le_toInt v, Int.le_of_lt_add_one BitVec.toInt_lt⟩

/-- Settles O45: it holds; READ_TEMP is a transaction, its second start is a repeated one, and its sixth response brings
the first byte read. -/
theorem readTempTraceAndValue : Obligations.ReadTempTraceAndValue := by
  refine ⟨rfl, fun ds s hflt hbrk hreleased => ?_⟩
  have hdiscipline : CommandList.bracketsFrom s.brk readTemp = some false := by
    rw [hbrk]
    exact bracketsFrom_isTransaction rfl
  have hevents : answeredEvents ds readTemp s = [if s.brk then BusEvent.repStart else .start,
      .write 0x90#8 (ds 1).nack, .write 0xAA#8 (ds 2).nack, .repStart, .write 0x91#8 (ds 4).nack,
      .read (ds 5).data true, .read (ds 6).data false, .stop] := rfl
  have hrxb : (answeredRun ds readTemp s).rxb = (ds 6).data := rfl
  have hvalue : readTempValue (answeredResponses ds readTemp) = some (sext8 (ds 5).data) := rfl
  obtain ⟨hissue, hend⟩ := issueAll_withAnswers hreleased hdiscipline
  refine ⟨_, _, hissue, ?_, hend, (flt_answeredRun _ _ s).trans hflt, hrxb, mkeSame_answeredRun (by decide) ds s, hvalue,
    sext8_range _⟩
  rw [busTrace_answeredRun, hevents, hbrk]
  rfl

/-! ### The string of a message (R184) -/

/-- A string may be sent in either bracket state and leaves it (R181). -/
theorem bracketsFrom_sendString (b : Bool) (str : List Byte) :
    CommandList.bracketsFrom b (sendString str) = some b := by
  induction str with
  | nil => rfl
  | cons c str ih => exact ih

theorem keyTrace_answeredRun_sendString (ds : Nat → Draw) (str : List Byte) (s : State) :
    (answeredRun ds (sendString str) s).keyTrace = s.keyTrace ++ str.flatMap charSegments := by
  induction str generalizing ds s with
  | nil => exact (List.append_nil _).symm
  | cons c str ih =>
    calc (answeredRun (fun k => ds (k + 1)) (sendString str) (finished (.sendChar c) (s.withDraw (ds 0)))).keyTrace
      _ = (s.keyTrace ++ charSegments c) ++ str.flatMap charSegments := by rw [ih, finished_sendChar]; rfl
      _ = s.keyTrace ++ (c :: str).flatMap charSegments := by rw [List.append_assoc, List.flatMap_cons]

/-! ### The host's cycles (R139, R266, R267) -/

/-- The block between two of the host's sequences: no bracket open and no fault. -/
def betweenSequences (s : State) : Prop := s.brk = false ∧ s.flt = 0#2

/-- The segments the cycles add: in each the message for that cycle's own reading. -/
def cycleSegments (n : Nat) (ds : Nat → Nat → Draw) : List Segment :=
  (List.range n).flatMap (fun k => (message (sext8 (ds k 5).data)).flatMap charSegments)

/-- A cycle reads the byte of its first read and sends the message for it. -/
theorem telemetryCycle_completes {ds : Nat → Draw} {s : State} (hs : betweenSequences s)
    (hreleased : ∀ k, (ds k).hold = false) :
    ∃ t, telemetryCycle ds s = some (t, sext8 (ds 5).data) ∧ betweenSequences t ∧
      t.keyTrace = s.keyTrace ++ (message (sext8 (ds 5).data)).flatMap charSegments := by
  obtain ⟨hbrk, hflt⟩ := hs
  obtain ⟨u, rs, hread, -, hbrk', hflt', -, ⟨-, hkept, -⟩, hvalue, -, -⟩ :=
    readTempTraceAndValue.2 ds s hflt hbrk hreleased
  obtain ⟨hsend, hend⟩ := issueAll_withAnswers (ds := fun k => ds (k + readTemp.length)) (fun k => hreleased _)
    (bracketsFrom_sendString u.brk (message (sext8 (ds 5).data)))
  refine ⟨_, ?_, ⟨hend.trans hbrk', (flt_answeredRun _ _ u).trans hflt'⟩, ?_⟩
  · simp only [telemetryCycle, hread, hvalue, transmission, hsend, Option.bind_some, Option.map_some]
  · rw [keyTrace_answeredRun_sendString, hkept]

/-- The cycles run one after the other, each with its own answers. -/
theorem telemetryCycles_complete (n : Nat) {ds : Nat → Nat → Draw} {s : State} (hs : betweenSequences s)
    (hreleased : ∀ k j, (ds k j).hold = false) :
    ∃ t, telemetryCycles n ds s = some (t, (List.range n).map (fun k => sext8 (ds k 5).data)) ∧ betweenSequences t ∧
      t.keyTrace = s.keyTrace ++ cycleSegments n ds := by
  induction n generalizing ds s with
  | zero => exact ⟨s, rfl, hs, (List.append_nil _).symm⟩
  | succ n ih =>
    obtain ⟨u, hcycle, hu, hsent⟩ := telemetryCycle_completes hs (hreleased 0)
    obtain ⟨t, hcycles, ht, hrest⟩ := ih (ds := fun k => ds (k + 1)) hu (fun k => hreleased (k + 1))
    refine ⟨t, ?_, ht, ?_⟩
    · simp only [telemetryCycles, hcycle, hcycles, Option.bind_some, Option.map_some, List.range_succ_eq_map,
        List.map_cons, List.map_map, Function.comp_def]
    · rw [hrest, hsent, List.append_assoc]
      simp only [cycleSegments, List.range_succ_eq_map, List.flatMap_cons, List.flatMap_map]

/-- From startup: INITIALIZE leaves the block between two sequences with nothing keyed, and the cycles follow. -/
theorem beacon_completes (n : Nat) {ds : Nat → Nat → Draw} {s : State} (hs : betweenSequences s)
    (hreleased : ∀ k j, (ds k j).hold = false) :
    ∃ t, beacon n ds s = some (t, (List.range n).map (fun k => sext8 (ds (k + 1) 5).data)) ∧ betweenSequences t ∧
      t.keyTrace = s.keyTrace ++ cycleSegments n (fun k => ds (k + 1)) := by
  obtain ⟨hbrk, hflt⟩ := hs
  obtain ⟨u, rs, hinit, -, hbrk', hflt', -, -, hkept, -⟩ := initializeTrace.2 (ds 0) s hflt hbrk (hreleased 0)
  obtain ⟨t, hcycles, ht, hkey⟩ := telemetryCycles_complete n (ds := fun k => ds (k + 1)) ⟨hbrk', hflt'⟩
    (fun k => hreleased (k + 1))
  refine ⟨t, ?_, ht, by rw [hkey, hkept]⟩
  simp only [beacon, hinit, hcycles, Option.bind_some]

/-! ### The host's list when it takes a reading (R134, R139, R268) -/

theorem portQuiet_of_takeReading {s : State} {acts : List HostAct} (h : s.host = .takeReading :: acts) : portQuiet s :=
  ⟨fun _ hreset => (nomatch h.symm.trans hreset), fun _ _ hoffer => (nomatch h.symm.trans hoffer)⟩

/-- A free block whose host comes to take a reading only lets the host's list go on. -/
theorem step_takeReading {s : State} {acts : List HostAct} (hbusy : s.busy = false)
    (hhost : s.host = .takeReading :: acts) :
    step s = .next { s.sample with host := afterReading s.rsp acts } := by
  rw [step_settles (portQuiet_of_takeReading hhost) hbusy, hhost]
  rfl

/-- The offers before the place of the message stay. -/
theorem fillReading_offers (t : Int) (cs : List Instr) (acts : List HostAct) :
    fillReading t (offers cs ++ acts) = offers cs ++ fillReading t acts := by
  induction cs with
  | nil => rfl
  | cons i cs ih => exact congrArg (HostAct.offer (encode i) :: ·) ih

/-- Settles O60: it holds; each cycle is READ_TEMP and the message for what it returned, and a step that takes a reading
fills the host's next `sendReading`. -/
theorem eachCycleSendsItsOwnReading : Obligations.EachCycleSendsItsOwnReading := by
  refine ⟨fun n ds s hflt hbrk hreleased => ?_, fun s acts hbusy hhost => ?_, fun t acts => ?_, fun n => rfl, rfl⟩
  · obtain ⟨t, hbeacon, ⟨hbrk', hflt'⟩, hkey⟩ := beacon_completes n ⟨hbrk, hflt⟩ hreleased
    exact ⟨t, hbeacon, hbrk', hflt', hkey⟩
  · refine ⟨_, step_takeReading hbusy hhost, rfl, fun r hheard => ?_, fun hsilent => ?_⟩
    · rw [hheard]
      rfl
    · rw [hsilent, hhost]
      rfl
  · rw [fillReading_offers, List.append_assoc]
    rfl

end Sys2Proof.Proofs

namespace Sys2Proof.Proofs

open Sys2Proof.Machine

/-! ### The rows of the Symbol Table (R155) -/

theorem nodup_characters_defaultSymtab : (defaultSymtab.map SymbolEntry.character).Nodup := by
  decide

theorem row_length_eq_zero_iff : ∀ e ∈ defaultSymtab, e.length = 0#3 ↔ e.character = 0x20#8 := by
  decide

theorem row_length_le : ∀ e ∈ defaultSymtab, e.length.toNat ≤ 5 := by
  decide

theorem row_code_lt : ∀ e ∈ defaultSymtab, e.code.toNat < 2 ^ e.length.toNat := by
  decide

/-- A row's character is a seven-bit one and no uppercase letter. -/
theorem row_character_range : ∀ e ∈ defaultSymtab,
    e.character.toNat < 0x80 ∧ ¬(0x41 ≤ e.character.toNat ∧ e.character.toNat ≤ 0x5A) := by
  decide

theorem filter_sentinel_defaultSymtab :
    defaultSymtab.filter (fun e => e.length == 0#3) = [⟨0x20#8, 0#3, 0#5⟩] := by
  decide

/-- Each letter that may be absent has one row. -/
theorem filter_optional_characters :
    (defaultSymtab.map SymbolEntry.character).filter (fun c => optionalLetters.contains c) = optionalLetters := by
  decide

/-! ### The table in force (R157) -/

theorem presentIn_of_not_optional (absent : Byte → Bool) {c : Byte} (h : optionalLetters.contains c = false) :
    presentIn absent c = true := by
  rw [presentIn, h]
  rfl

theorem presentIn_of_optional (absent : Byte → Bool) {c : Byte} (h : optionalLetters.contains c = true) :
    presentIn absent c = !absent c := by
  rw [presentIn, h, Bool.true_and]

/-- A row whose letter may not be absent is in every admissible table. -/
theorem mem_symtabWithout_of_not_optional (absent : Byte → Bool) {e : SymbolEntry} (hrow : e ∈ defaultSymtab)
    (h : optionalLetters.contains e.character = false) : e ∈ symtabWithout absent :=
  List.mem_filter.mpr ⟨hrow, presentIn_of_not_optional absent h⟩

theorem symtabWithout_none_absent : symtabWithout (fun _ => false) = defaultSymtab :=
  List.filter_eq_self.mpr fun e _ => by simp [presentIn]

theorem nodup_characters_symtabWithout (absent : Byte → Bool) :
    ((symtabWithout absent).map SymbolEntry.character).Nodup :=
  nodup_characters_defaultSymtab.sublist (List.filter_sublist.map SymbolEntry.character)

/-- The rows that are not in force are those of the absent letters among the optional ones. -/
theorem countP_not_present (absent : Byte → Bool) :
    defaultSymtab.countP (fun e => !presentIn absent e.character) = optionalLetters.countP absent :=
  calc defaultSymtab.countP (fun e => !presentIn absent e.character)
    _ = (defaultSymtab.map SymbolEntry.character).countP (fun c => absent c && optionalLetters.contains c) := by
      simp only [List.countP_map, Function.comp_def, presentIn, Bool.not_not, Bool.and_comm]
    _ = optionalLetters.countP absent := by
      rw [← List.countP_filter, filter_optional_characters]

theorem length_symtabWithout (absent : Byte → Bool) :
    (symtabWithout absent).length = 38 - optionalLetters.countP absent := by
  have hsize : defaultSymtab.length = 38 := rfl
  have hsplit : defaultSymtab.length =
      defaultSymtab.countP (fun e => presentIn absent e.character) + optionalLetters.countP absent := by
    simpa only [Bool.not_eq_true, Bool.decide_eq_false, countP_not_present] using
      List.length_eq_countP_add_countP (fun e => presentIn absent e.character) (l := defaultSymtab)
  rw [symtabWithout, ← List.countP_eq_length_filter]
  omega

/-! ### LOOKUP (R151) -/

theorem lookupWithout_eq_find (absent : Byte → Bool) (c : Byte) :
    lookupWithout absent c = (symtabWithout absent).find? (fun e => decide (e.character = c)) :=
  scanTable_eq_find absent c defaultSymtab

/-- Any match is the first: no two rows have one character. -/
theorem lookupWithout_of_mem {absent : Byte → Bool} {e : SymbolEntry} (h : e ∈ symtabWithout absent) :
    lookupWithout absent e.character = some e := by
  cases hfound : lookupWithout absent e.character with
  | none =>
    rw [lookupWithout_eq_find, List.find?_eq_none] at hfound
    exact absurd (decide_eq_true rfl) (hfound e h)
  | some e' =>
    obtain ⟨hmem, hchar⟩ := lookupWithout_mem hfound
    rw [List.inj_on_of_nodup_map (nodup_characters_symtabWithout absent) hmem h hchar]

theorem lookupWithout_row_of_not_optional (absent : Byte → Bool) {e : SymbolEntry} (hrow : e ∈ defaultSymtab)
    (h : optionalLetters.contains e.character = false) : lookupWithout absent e.character = some e :=
  lookupWithout_of_mem (mem_symtabWithout_of_not_optional absent hrow h)

theorem lookupWithout_space (absent : Byte → Bool) : lookupWithout absent 0x20#8 = some ⟨0x20#8, 0#3, 0#5⟩ :=
  lookupWithout_row_of_not_optional absent (e := ⟨0x20#8, 0#3, 0#5⟩) (by decide) (by decide)

theorem lookup_eq_none_of_no_row {c : Byte} (h : ∀ e ∈ defaultSymtab, e.character ≠ c) : lookup c = none := by
  cases hfound : lookup c with
  | none => rfl
  | some e =>
    obtain ⟨hmem, hchar⟩ := lookupWithout_mem hfound
    exact absurd hchar (h e (mem_default_of_mem_symtabWithout hmem))

/-- Settles O32: it holds; the scan is a search of the rows in force, whose characters are unique. -/
theorem lookupScansTableInForce : Obligations.LookupScansTableInForce := by
  refine ⟨fun absent c => ⟨lookupWithout_eq_find absent c, ?_⟩, lookupWithout_eq_find _, lookupWithout_space _,
    ?_, ?_, ?_⟩
  · rintro e hmem rfl
    exact lookupWithout_of_mem hmem
  · exact lookupWithout_row_of_not_optional _ (e := ⟨0x61#8, 2#3, 0b00010#5⟩) (by decide) (by decide)
  · rintro c hlow hhigh
    refine lookup_eq_none_of_no_row ?_
    rintro e hrow rfl
    exact (row_character_range e hrow).2 ⟨hlow, hhigh⟩
  · rintro c hhigh
    refine lookup_eq_none_of_no_row ?_
    rintro e hrow rfl
    exact absurd hhigh (Nat.not_le.mpr (row_character_range e hrow).1)

/-- Settles O34: it holds; LOOKUP asks the parameter for an optional letter only, and each of them has one row. -/
theorem absentLettersAreTheOnlyFreedom : Obligations.AbsentLettersAreTheOnlyFreedom := by
  refine fun absent => ⟨fun c hoptional => ?_, fun c hfixed => ?_, length_symtabWithout absent⟩
  · rw [lookupWithout_eq, presentIn_of_optional absent hoptional]
    cases absent c <;> rfl
  · rw [lookupWithout_eq, presentIn_of_not_optional absent hfixed, if_pos rfl]

/-! ### Well-formed tables (R152, R159) -/

theorem oneSentinel_symtabWithout (absent : Byte → Bool) :
    SymbolTable.oneSentinel (symtabWithout absent) = true := by
  have hspace : presentIn absent 0x20#8 = true := presentIn_of_not_optional absent (by decide)
  have hfilter : (symtabWithout absent).filter (fun e => e.length == 0#3) = [⟨0x20#8, 0#3, 0#5⟩] := by
    rw [symtabWithout, List.filter_comm, filter_sentinel_defaultSymtab, List.filter_singleton, hspace]
    rfl
  rw [SymbolTable.oneSentinel, hfilter]
  rfl

theorem wf_symtabWithout (absent : Byte → Bool) : SymbolTable.wf (symtabWithout absent) = true := by
  have hdistinct : SymbolTable.charactersDistinct (symtabWithout absent) = true :=
    decide_eq_true (nodup_characters_symtabWithout absent)
  have hlengths : SymbolTable.lengthsInRange (symtabWithout absent) = true :=
    List.all_eq_true.mpr fun e hmem => decide_eq_true (row_length_le e (mem_default_of_mem_symtabWithout hmem))
  have hcodes : SymbolTable.codesFit (symtabWithout absent) = true :=
    List.all_eq_true.mpr fun e hmem => decide_eq_true (row_code_lt e (mem_default_of_mem_symtabWithout hmem))
  rw [SymbolTable.wf, hdistinct, oneSentinel_symtabWithout, hlengths, hcodes]
  rfl

/-- Settles O33: it holds; an admissible table is the full one less some rows that are not the space's. -/
theorem everyAdmissibleTableIsWellFormed : Obligations.EveryAdmissibleTableIsWellFormed := by
  refine fun absent => ⟨nodup_characters_symtabWithout absent, fun e hmem => ?_, ?_, wf_symtabWithout absent⟩
  · have hrow := mem_default_of_mem_symtabWithout hmem
    exact ⟨row_length_eq_zero_iff e hrow, row_length_le e hrow⟩
  · rw [lookupWithout_space]
    rfl

/-! ### Patterns and codes (R78, R156) -/

theorem codeOfPattern_append_singleton (pattern : List Bool) (dit : Bool) :
    codeOfPattern (pattern ++ [dit]) = 2 * codeOfPattern pattern + dit.toNat := by
  rw [codeOfPattern, List.foldl_append, List.foldl_cons, List.foldl_nil]
  cases dit <;> rfl

/-- The low `n` bits of a number, sent from the top, are the pattern of its residue. -/
theorem codeOfPattern_testBits (n k : Nat) : codeOfPattern ((List.range n).map k.testBit).reverse = k % 2 ^ n := by
  induction n generalizing k with
  | zero => exact (Nat.mod_one k).symm
  | succ n ih =>
    have hbits : ((List.range (n + 1)).map k.testBit).reverse =
        ((List.range n).map (k / 2).testBit).reverse ++ [k.testBit 0] := by
      simp [List.range_succ_eq_map, Function.comp_def, Nat.testBit_succ]
    calc codeOfPattern ((List.range (n + 1)).map k.testBit).reverse
      _ = 2 * (k / 2 % 2 ^ n) + (k.testBit 0).toNat := by rw [hbits, codeOfPattern_append_singleton, ih]
      _ = k % 2 + 2 * (k / 2 % 2 ^ n) := by rw [Nat.toNat_testBit, Nat.pow_zero, Nat.div_one, Nat.add_comm]
      _ = k % 2 ^ (n + 1) := by rw [Nat.pow_succ', Nat.mod_mul]

theorem length_patternOf (e : SymbolEntry) : (patternOf e).length = e.length.toNat := by
  simp only [patternOf, List.length_reverse, List.length_map, List.length_range]

theorem codeOfPattern_patternOf (e : SymbolEntry) : codeOfPattern (patternOf e) = e.code.toNat % 2 ^ e.length.toNat :=
  codeOfPattern_testBits e.length.toNat e.code.toNat

/-- An entry whose code fits its length is the entry of the pattern it sends. -/
theorem entryOfPattern_patternOf {e : SymbolEntry} (hfits : e.code.toNat < 2 ^ e.length.toNat) :
    entryOfPattern e.character (patternOf e) = e := by
  rw [entryOfPattern, length_patternOf, codeOfPattern_patternOf, Nat.mod_eq_of_lt hfits, BitVec.ofNat_toNat,
    BitVec.ofNat_toNat, BitVec.setWidth_eq, BitVec.setWidth_eq]

/-- Settles O35: it holds; the ROM words are the rows' own, and the code of every row fits its length. -/
theorem entriesFollowTheirPatterns : Obligations.EntriesFollowTheirPatterns := by
  refine ⟨?_, fun absent e hmem => ⟨?_, length_patternOf e⟩⟩
  · rw [symtabWithout_none_absent]
    decide
  · exact entryOfPattern_patternOf (row_code_lt e (mem_default_of_mem_symtabWithout hmem))

end Sys2Proof.Proofs

namespace Sys2Proof.Proofs

open Sys2Proof.Machine

/-! ### The micro-operations (R167 to R170) -/

theorem dit_eq (s : State) : dit s = s.addSegments (elementSegments true) := element_eq true s

theorem dah_eq (s : State) : dah s = s.addSegments (elementSegments false) := element_eq false s

theorem sendElements_of_dit {code : BitVec 5} {i : Nat} (h : code.getLsbD i = true) (s : State) :
    sendElements code (i + 1) s = sendElements code i (dit s) := by
  rw [sendElements, isDit, if_pos h]

theorem sendElements_of_dah {code : BitVec 5} {i : Nat} (h : code.getLsbD i = false) (s : State) :
    sendElements code (i + 1) s = sendElements code i (dah s) := by
  rw [sendElements, isDit, h, if_neg Bool.false_ne_true]

/-- Settles O36: it holds; each micro-operation adds its list of segments, and the bit or the length decides which fires. -/
theorem microOperationsEmitTheirSegments : Obligations.MicroOperationsEmitTheirSegments := by
  refine ⟨fun s => ⟨?_, ?_, ⟨rfl, rfl, rfl⟩, rfl, rfl, rfl⟩, fun code i s => ⟨?_, ?_⟩, fun e s => ⟨?_, ?_⟩, fun s => rfl⟩
  · rw [dit_eq]
    exact ⟨rfl, rfl, rfl⟩
  · rw [dah_eq]
    exact ⟨rfl, rfl, rfl⟩
  · exact fun hset => sendElements_of_dit hset s
  · exact fun hclear => sendElements_of_dah hclear s
  · exact fun hspace => if_pos hspace
  · exact fun hletter => if_neg hletter

/-! ### SEND_CHAR (R166, R172) -/

theorem exec_sendChar (c : Byte) (s : State) :
    exec (.sendChar c) s = .next ((s.addSegments (charSegments c)).complete 0x00#8 false) := by
  rw [exec_eq, outcomeState_sendChar]

/-- The word of SEND_CHAR is its operation code plus the character (R71). -/
theorem encode_sendChar (c : Byte) : encode (.sendChar c) = 0x400#11 + BitVec.setWidth 11 c := by
  have hbyte := c.isLt
  have hfields : (encode (.sendChar c)).toNat = 4 <<< 8 ||| c.toNat := BitVec.toNat_append 4#3 c
  apply BitVec.eq_of_toNat_eq
  rw [hfields, ← Nat.shiftLeft_add_eq_or_of_lt hbyte, BitVec.toNat_add, BitVec.toNat_setWidth, BitVec.toNat_ofNat]
  omega

theorem lookup_a : lookup 0x61#8 = some ⟨0x61#8, 2#3, 0b00010#5⟩ :=
  lookupWithout_row_of_not_optional _ (e := ⟨0x61#8, 2#3, 0b00010#5⟩) (by decide) (by decide)

theorem addSegments_charSegments_key (c : Byte) (s : State) :
    (s.addSegments (charSegments c)).key = if (lookup c).isSome then false else s.key := by
  rw [charSegments_eq, ← sendFound_eq, sendFound_key]

/-- Settles O37: it holds; SEND_CHAR adds the segments of what LOOKUP found and completes, in either bracket state. -/
theorem sendCharAddsItsSegments : Obligations.SendCharAddsItsSegments := by
  refine ⟨?_, fun c => ⟨encode_sendChar c, fun s => ⟨_, exec_sendChar c s, rfl, rfl, addSegments_charSegments_key c s,
    ⟨rfl, rfl, rfl⟩, ⟨rfl, rfl, rfl, rfl, rfl, rfl⟩, rfl, rfl, rfl, rfl⟩⟩⟩
  rw [charSegments_eq, lookup_a]
  rfl

theorem charSegments_of_not_found {c : Byte} (h : lookup c = none) : charSegments c = [] := by
  rw [charSegments_eq, h]
  rfl

/-- Settles O38: it holds; a character not found has no segments, and the response is the same for every character. -/
theorem unsupportedCharacterIsSkipped : Obligations.UnsupportedCharacterIsSkipped := by
  intro c s hskipped
  refine ⟨_, exec_sendChar c s, ?_, rfl, ⟨rfl, rfl, rfl, rfl, rfl, rfl⟩, fun c' => ⟨_, exec_sendChar c' s, rfl, rfl, rfl⟩⟩
  rw [charSegments_of_not_found hskipped, State.addSegments_nil]
  exact ⟨rfl, rfl, rfl⟩

/-! ### The segments of an entry, counted (R174, R176) -/

theorem assertedUnits_append (l l' : List Segment) : assertedUnits (l ++ l') = assertedUnits l + assertedUnits l' := by
  rw [assertedUnits, List.filter_append, totalUnits_append]
  rfl

/-- The segments of a pattern, element by element: a dit takes two units, a dah four, one of each pair a gap. -/
theorem elements_counts (pattern : List Bool) :
    totalUnits (pattern.flatMap elementSegments) = 2 * pattern.countP id + 4 * pattern.countP (fun d => !d) ∧
    assertedUnits (pattern.flatMap elementSegments) = pattern.countP id + 3 * pattern.countP (fun d => !d) ∧
    (pattern.flatMap elementSegments).length = 2 * pattern.length ∧
    pulseCount (pattern.flatMap elementSegments) = pattern.length := by
  induction pattern with
  | nil => exact ⟨rfl, rfl, rfl, rfl⟩
  | cons d ds ih =>
    obtain ⟨htotal, hasserted, hlength, hpulses⟩ := ih
    rw [List.flatMap_cons, totalUnits_append, assertedUnits_append, List.length_append, pulseCount_append, htotal,
      hasserted, hlength, hpulses]
    cases d <;> simp [elementSegments, totalUnits, assertedUnits, pulseCount] <;> omega

theorem entrySegments_space {e : SymbolEntry} (h : e.length = 0#3) : entrySegments e = [⟨false, 7⟩] := if_pos h

theorem entrySegments_letter {e : SymbolEntry} (h : e.length ≠ 0#3) :
    entrySegments e = (patternOf e).flatMap elementSegments ++ [⟨false, 3⟩] := if_neg h

theorem totalUnits_entrySegments (e : SymbolEntry) : totalUnits (entrySegments e) = entryUnits e := by
  by_cases hspace : e.length = 0#3
  · rw [entrySegments_space hspace, entryUnits, if_pos hspace]
    rfl
  · obtain ⟨htotal, -⟩ := elements_counts (patternOf e)
    rw [entrySegments_letter hspace, entryUnits, if_neg hspace, totalUnits_append, htotal]
    rfl

theorem pulseCount_entrySegments (e : SymbolEntry) : pulseCount (entrySegments e) = e.length.toNat := by
  by_cases hspace : e.length = 0#3
  · rw [entrySegments_space hspace, hspace]
    rfl
  · obtain ⟨-, -, -, hpulses⟩ := elements_counts (patternOf e)
    rw [entrySegments_letter hspace, pulseCount_append, hpulses, length_patternOf]
    rfl

theorem ditCount_add_dahCount (e : SymbolEntry) : ditCount e + dahCount e = e.length.toNat := by
  rw [← length_patternOf e, List.length_eq_countP_add_countP id]
  simp [ditCount, dahCount]

/-- Merging joins the last gap to the letter silence and nothing else: every element keeps its two segments. -/
theorem mergeSegments_elements {pattern : List Bool} (h : pattern ≠ []) :
    ∃ n as, mergeSegments (pattern.flatMap elementSegments ++ [⟨false, 3⟩]) = ⟨true, n⟩ :: as ∧
      as.length + 1 = 2 * pattern.length := by
  induction pattern with
  | nil => exact absurd rfl h
  | cons d ds ih =>
    obtain ⟨n, helement⟩ : ∃ n, elementSegments d = [⟨true, n⟩, ⟨false, 1⟩] := by
      cases d <;> exact ⟨_, rfl⟩
    rw [List.flatMap_cons, helement]
    cases ds with
    | nil => exact ⟨n, [⟨false, 4⟩], rfl, rfl⟩
    | cons d' ds =>
      obtain ⟨n', as, hmerge, hlength⟩ := ih (List.cons_ne_nil d' ds)
      have hgap := mergeSegments_cons_other (g := ⟨false, 1⟩) hmerge Bool.false_ne_true
      refine ⟨n, _, mergeSegments_cons_other (g := ⟨true, n⟩) hgap Bool.false_ne_true.symm, ?_⟩
      simp only [List.length_cons] at hlength ⊢
      omega

theorem patternOf_ne_nil {e : SymbolEntry} (h : e.length ≠ 0#3) : patternOf e ≠ [] := by
  intro hnil
  have hlength := length_patternOf e
  rw [hnil] at hlength
  exact h (BitVec.eq_of_toNat_eq hlength.symm)

/-- Settles O39: it holds; the counts follow from the pattern's, and a row's length is at most 5. -/
theorem characterDurations : Obligations.CharacterDurations := by
  intro absent e hmem hletter
  obtain ⟨htotal, hasserted, hlength, -⟩ := elements_counts (patternOf e)
  obtain ⟨n, as, hmerge, hmerged⟩ := mergeSegments_elements (patternOf_ne_nil hletter)
  have hcount := ditCount_add_dahCount e
  have hmost := row_length_le e (mem_default_of_mem_symtabWithout hmem)
  have hleast : 0 < (patternOf e).length := List.length_pos_iff.mpr (patternOf_ne_nil hletter)
  have hunits : totalUnits (entrySegments e) = 2 * ditCount e + 4 * dahCount e + 3 := by
    rw [totalUnits_entrySegments, entryUnits, if_neg hletter]
  rw [length_patternOf] at hlength hmerged hleast
  refine ⟨hcount, hunits, ?_, ?_, ?_, by omega, by omega⟩
  · rw [entrySegments_letter hletter, assertedUnits_append, hasserted]
    rfl
  · rw [entrySegments_letter hletter, List.length_append, hlength]
    rfl
  · rw [entrySegments_letter hletter, hmerge]
    exact hmerged

end Sys2Proof.Proofs

namespace Sys2Proof.Proofs

open Sys2Proof.Machine

/-! ### Strings (R176, R177, R184) -/

theorem totalUnits_charSegments (c : Byte) : totalUnits (charSegments c) = charUnits c := by
  unfold charSegments charUnits
  cases lookup c with
  | none => rfl
  | some e => exact totalUnits_entrySegments e

theorem pulseCount_charSegments (c : Byte) : pulseCount (charSegments c) = charLength c := by
  unfold charSegments charLength
  cases lookup c with
  | none => rfl
  | some e => exact pulseCount_entrySegments e

/-- A string's segments: the units and the pulses add up, and no two pulses meet. -/
theorem stringSegments_counts (str : List Byte) :
    totalUnits (str.flatMap charSegments) = (str.map charUnits).sum ∧
    pulseCount (str.flatMap charSegments) = (str.map charLength).sum ∧
    pulsesApart (str.flatMap charSegments) = true := by
  induction str with
  | nil => exact ⟨rfl, rfl, rfl⟩
  | cons c str ih =>
    obtain ⟨hunits, hpulses, hapart⟩ := ih
    have hchar : pulsesApart (charSegments c) = true := (foundSegments_sound (lookup c)).2
    rw [List.flatMap_cons, totalUnits_append, pulseCount_append, hunits, hpulses, totalUnits_charSegments,
      pulseCount_charSegments]
    exact ⟨rfl, rfl, pulsesApart_append hchar hapart⟩

/-- A string completes whatever the target answers: SEND_CHAR has no stall point (R181). -/
theorem issueAll_sendString (ds : Nat → Draw) (str : List Byte) (s : State) :
    issueAll (withAnswers ds (sendString str)) s =
      some (answeredRun ds (sendString str) s, List.replicate str.length ⟨0x00#8, false⟩) := by
  induction str generalizing ds s with
  | nil => rfl
  | cons c str ih =>
    have hanswer := answered_issue (i := .sendChar c) (d := ds 0) (s := s) rfl rfl
    have hrest := ih (fun k => ds (k + 1)) (finished (.sendChar c) (s.withDraw (ds 0)))
    simp only [sendString, List.map_cons, withAnswers, issueAll, hanswer] at hrest ⊢
    rw [hrest]
    rfl

theorem time_answeredRun_sendString (ds : Nat → Draw) (str : List Byte) (s : State) :
    (answeredRun ds (sendString str) s).time = s.time + (str.map charUnits).sum := by
  induction str generalizing ds s with
  | nil => rfl
  | cons c str ih =>
    calc (answeredRun (fun k => ds (k + 1)) (sendString str) (finished (.sendChar c) (s.withDraw (ds 0)))).time
      _ = (s.time + totalUnits (charSegments c)) + (str.map charUnits).sum := by rw [ih, finished_sendChar]; rfl
      _ = s.time + ((c :: str).map charUnits).sum := by
        rw [totalUnits_charSegments, Nat.add_assoc, List.map_cons, List.sum_cons]

/-! ### Pulses and merging (R33, R176) -/

theorem pulseCount_cons (g : Segment) (gs : List Segment) :
    pulseCount (g :: gs) = pulseCount gs + g.level.toNat := by
  rw [pulseCount, List.countP_cons, ← pulseCount]
  cases g.level <;> rfl

/-- The first merged segment has the level of the first segment. -/
theorem mergeSegments_head_level (l : List Segment) :
    (mergeSegments l).head?.map Segment.level = l.head?.map Segment.level := by
  cases l with
  | nil => rfl
  | cons g gs =>
    cases hmerge : mergeSegments gs with
    | nil => rw [mergeSegments_cons_nil hmerge]; rfl
    | cons a as =>
      by_cases hlevel : g.level = a.level
      · rw [mergeSegments_cons_same hmerge hlevel]; rfl
      · rw [mergeSegments_cons_other hmerge hlevel]; rfl

theorem pulsesApart_cons {g : Segment} {gs : List Segment} (h : pulsesApart (g :: gs) = true) :
    pulsesApart gs = true ∧ (g.level = true → gs.head?.map Segment.level = some false) := by
  cases gs with
  | nil => exact ⟨rfl, fun hpulse => by simp [pulsesApart, hpulse] at h⟩
  | cons a as =>
    obtain ⟨hpair, hrest⟩ := Bool.and_eq_true_iff.mp h
    refine ⟨hrest, fun hpulse => ?_⟩
    simpa [hpulse] using hpair

/-- Merging joins only silences when pulses are apart. -/
theorem pulseCount_mergeSegments {l : List Segment} (h : pulsesApart l = true) :
    pulseCount (mergeSegments l) = pulseCount l := by
  induction l with
  | nil => rfl
  | cons g gs ih =>
    obtain ⟨hrest, hnext⟩ := pulsesApart_cons h
    rw [pulseCount_cons, ← ih hrest]
    cases hmerge : mergeSegments gs with
    | nil => rw [mergeSegments_cons_nil hmerge]; exact pulseCount_cons g []
    | cons a as =>
      by_cases hlevel : g.level = a.level
      · have hsilent : g.level = false := Bool.eq_false_iff.mpr fun hpulse => by
          have hhead := (mergeSegments_head_level gs).trans (hnext hpulse)
          rw [hmerge] at hhead
          have hsilence : a.level = false := Option.some.inj hhead
          simp [hsilence, hpulse] at hlevel
        rw [mergeSegments_cons_same hmerge hlevel]
        simp only [pulseCount_cons, ← hlevel, hsilent, Bool.toNat_false, Nat.add_zero]
      · rw [mergeSegments_cons_other hmerge hlevel, pulseCount_cons]

/-- Settles O40: it holds; every character completes, its segments are appended, and each ends in a silence. -/
theorem pulsesOfAString : Obligations.PulsesOfAString := by
  intro str ds s
  obtain ⟨-, hpulses, hapart⟩ := stringSegments_counts str
  have htrace := keyTrace_answeredRun_sendString ds str s
  refine ⟨_, _, issueAll_sendString ds str s, htrace, ?_, fun hs => ?_, time_answeredRun_sendString ds str s, rfl⟩
  · rw [htrace, pulseCount_append, hpulses]
  · rw [htrace]
    exact pulseCount_mergeSegments (pulsesApart_append hs hapart)

/-! ### Silences (R177) -/

/-- Every segment of the list is a silence. -/
def allSilent (segs : List Segment) : Prop := ∀ g ∈ segs, g.level = false

theorem totalUnits_reverse (l : List Segment) : totalUnits l.reverse = totalUnits l := by
  simp only [totalUnits, List.map_reverse, List.sum_reverse]

/-- Silences at the end add to the silence before them. -/
theorem trailingSilence_append {l l' : List Segment} (h : allSilent l') :
    trailingSilence (l ++ l') = trailingSilence l + totalUnits l' := by
  have hsilent : ∀ g ∈ l'.reverse, (!g.level) = true := fun g hg => by
    rw [h g (List.mem_reverse.mp hg)]
    rfl
  rw [trailingSilence, List.reverse_append, List.takeWhile_append_of_pos hsilent, totalUnits_append,
    totalUnits_reverse, Nat.add_comm]
  rfl

theorem trailingSilence_pulse_last (l : List Segment) (n : Nat) : trailingSilence (l ++ [⟨true, n⟩]) = 0 := by
  rw [trailingSilence, List.reverse_append]
  rfl

/-- After a letter the pin has been silent for its last element's gap and the letter silence. -/
theorem trailingSilence_letter (l : List Segment) {e : SymbolEntry} (h : e.length ≠ 0#3) :
    trailingSilence (l ++ entrySegments e) = 4 := by
  obtain ⟨ds, d, hpattern⟩ := (patternOf e).eq_nil_or_concat.resolve_left (patternOf_ne_nil h)
  obtain ⟨n, helement⟩ : ∃ n, elementSegments d = [⟨true, n⟩] ++ [⟨false, 1⟩] := by
    cases d <;> exact ⟨_, rfl⟩
  have hsplit : l ++ entrySegments e =
      ((l ++ ds.flatMap elementSegments) ++ [⟨true, n⟩]) ++ [⟨false, 1⟩, ⟨false, 3⟩] := by
    rw [entrySegments_letter h, hpattern]
    simp [helement]
  have hsilent : allSilent [⟨false, 1⟩, ⟨false, 3⟩] := by simp [allSilent]
  rw [hsplit, trailingSilence_append hsilent, trailingSilence_pulse_last]
  rfl

theorem charSegments_of_found {c : Byte} {e : SymbolEntry} (h : lookup c = some e) :
    charSegments c = entrySegments e := by
  rw [charSegments_eq, h]
  rfl

theorem charSegments_space : charSegments 0x20#8 = [⟨false, 7⟩] := charSegments_of_found (lookupWithout_space _)

/-- Spaces and skipped characters add seven units of silence a space and nothing else. -/
theorem gapSegments_counts {gap : List Byte} (h : ∀ g ∈ gap, g = 0x20#8 ∨ lookup g = none) :
    allSilent (gap.flatMap charSegments) ∧ totalUnits (gap.flatMap charSegments) = 7 * gap.count 0x20#8 := by
  induction gap with
  | nil => exact ⟨nofun, rfl⟩
  | cons g gs ih =>
    obtain ⟨hg, hgs⟩ := List.forall_mem_cons.mp h
    obtain ⟨hsilent, hunits⟩ := ih hgs
    rw [List.flatMap_cons]
    rcases hg with rfl | hskipped
    · rw [charSegments_space, totalUnits_append, hunits, List.count_cons_self]
      exact ⟨List.forall_mem_cons.mpr ⟨rfl, hsilent⟩, by rw [Nat.mul_succ, Nat.add_comm]; rfl⟩
    · have hother : g ≠ 0x20#8 := by
        rintro rfl
        cases (lookupWithout_space _).symm.trans hskipped
      rw [charSegments_of_not_found hskipped, List.count_cons_of_ne hother]
      exact ⟨hsilent, hunits⟩

/-- Settles O41: it holds; the letter leaves four units of silence, and what follows adds only silence. -/
theorem silencesStack : Obligations.SilencesStack := by
  intro c e gap ds s hfound hletter hgap
  obtain ⟨hsilent, hunits⟩ := gapSegments_counts hgap
  refine ⟨_, _, issueAll_sendString ds (c :: gap) s, ?_⟩
  rw [keyTrace_answeredRun_sendString, List.flatMap_cons, ← List.append_assoc, trailingSilence_append hsilent, hunits,
    charSegments_of_found hfound, trailingSilence_letter _ hletter]

/-! ### The telemetry message (R185, R186) -/

/-- A character that every admissible table has: the full table has it and it may not be absent (D23, R157). -/
def alwaysFound (c : Byte) : Bool :=
  !optionalLetters.contains c && (lookupWithout (fun _ => false) c).isSome

/-- The units of a character by the full table. -/
def fullTableUnits (c : Byte) : Nat := totalUnits (foundSegments (lookupWithout (fun _ => false) c))

theorem not_optional_of_alwaysFound {c : Byte} (h : alwaysFound c = true) : optionalLetters.contains c = false := by
  obtain ⟨hfixed, -⟩ := Bool.and_eq_true_iff.mp h
  rwa [Bool.not_eq_true'] at hfixed

theorem lookupWithout_of_alwaysFound {c : Byte} (h : alwaysFound c = true) (absent : Byte → Bool) :
    lookupWithout absent c = lookupWithout (fun _ => false) c :=
  (absentLettersAreTheOnlyFreedom absent).2.1 c (not_optional_of_alwaysFound h)

theorem charUnits_of_alwaysFound {c : Byte} (h : alwaysFound c = true) : charUnits c = fullTableUnits c := by
  rw [← totalUnits_charSegments, charSegments_eq, lookup, lookupWithout_of_alwaysFound h, fullTableUnits]

theorem sum_charUnits_of_alwaysFound {cs : List Byte} (h : ∀ c ∈ cs, alwaysFound c = true) :
    (cs.map charUnits).sum = (cs.map fullTableUnits).sum :=
  congrArg List.sum (List.map_congr_left fun c hc => charUnits_of_alwaysFound (h c hc))

theorem alwaysFound_messageHead : ∀ c ∈ messageHead, alwaysFound c = true := by decide

theorem alwaysFound_messageTail : ∀ c ∈ messageTail, alwaysFound c = true := by decide

theorem alwaysFound_digitByte : ∀ n < 10, alwaysFound (digitByte n) = true := by decide

theorem alwaysFound_sign : alwaysFound 0x6E#8 = true ∧ alwaysFound 0x70#8 = true := by decide

/-- The sign and both digits of a two-digit reading. -/
theorem alwaysFound_readingText {t : Int} (h : t.natAbs ≤ 99) : ∀ c ∈ readingText t, alwaysFound c = true := by
  have hsign : alwaysFound (if t < 0 then 0x6E#8 else 0x70#8) = true := by
    split
    · exact alwaysFound_sign.1
    · exact alwaysFound_sign.2
  have htens : alwaysFound (digitByte (t.natAbs / 10)) = true := alwaysFound_digitByte _ (by omega)
  have hones : alwaysFound (digitByte (t.natAbs % 10)) = true := alwaysFound_digitByte _ (by omega)
  simp only [readingText, List.forall_mem_cons, hsign, htens, hones, true_and]
  nofun

theorem sum_charUnits_messageHead : (messageHead.map charUnits).sum = 551 := by
  rw [sum_charUnits_of_alwaysFound alwaysFound_messageHead]
  decide

theorem sum_charUnits_messageTail : (messageTail.map charUnits).sum = 42 := by
  rw [sum_charUnits_of_alwaysFound alwaysFound_messageTail]
  decide

theorem message_of_two_digits {t : Int} (h : t.natAbs ≤ 99) :
    message t = messageHead ++ readingText t ++ messageTail := if_pos h

/-- Settles O50: it holds; head, reading and tail consist of characters no admissible table lacks. -/
theorem messageIsSentWhole : Obligations.MessageIsSentWhole := by
  intro t ht
  rw [message_of_two_digits ht]
  refine ⟨rfl, fun c hc absent => ?_, ?_⟩
  · have halways : alwaysFound c = true := by
      rcases List.mem_append.mp hc with hc | htail
      · rcases List.mem_append.mp hc with hhead | hreading
        · exact alwaysFound_messageHead c hhead
        · exact alwaysFound_readingText ht c hreading
      · exact alwaysFound_messageTail c htail
    rw [lookupWithout_of_alwaysFound halways]
    exact (Bool.and_eq_true_iff.mp halways).2
  · rw [List.map_append, List.map_append, List.sum_append, List.sum_append, sum_charUnits_messageHead,
      sum_charUnits_messageTail]
    simp only [readingText, List.map_cons, List.map_nil, List.sum_cons, List.sum_nil]
    omega

end Sys2Proof.Proofs

namespace Sys2Proof.Proofs

open Sys2Proof.Machine

/-! ### Runs of edges that send segments (R182) -/

/-- The level of `KEY` in each of `n` cycles, the present one first. -/
def shownLevels (u h : Nat) (pins : Clocked → Pins) : Nat → Clocked → List Bool
  | 0, _ => []
  | n + 1, c => c.st.key :: keyLevels u h pins n c

theorem shownLevels_succ (u h : Nat) (pins : Clocked → Pins) (n : Nat) (c : Clocked) :
    shownLevels u h pins (n + 1) c = c.st.key :: shownLevels u h pins n (edgeWith u h (pins c) c) := by
  cases n <;> rfl

/-- The levels after each of `n` edges are those shown from the first of them on. -/
theorem keyLevels_eq_shownLevels (u h : Nat) (pins : Clocked → Pins) (n : Nat) (c : Clocked) :
    keyLevels u h pins n c = shownLevels u h pins n (edgeWith u h (pins c) c) := by
  cases n <;> rfl

theorem shownLevels_add (u h : Nat) (pins : Clocked → Pins) (n m : Nat) (c : Clocked) :
    shownLevels u h pins (n + m) c = shownLevels u h pins n c ++ shownLevels u h pins m (edgesWith u h pins n c) := by
  induction n generalizing c with
  | zero => rw [Nat.zero_add]; rfl
  | succ n ih => rw [Nat.add_right_comm, shownLevels_succ, shownLevels_succ, ih]; rfl

/-- From `c` the block sends these segments and is then at `c'`: `UNIT_CYCLES` edges a unit, and the pin has each
segment's level for exactly its cycles. -/
def sends (u h : Nat) (pins : Clocked → Pins) (segs : List Segment) (c c' : Clocked) : Prop :=
  edgesWith u h pins (u * totalUnits segs) c = c' ∧
  shownLevels u h pins (u * totalUnits segs) c = segs.flatMap (fun g => List.replicate (g.units * u) g.level)

section

variable {u h : Nat} {pins : Clocked → Pins}

theorem sends_nil (c : Clocked) : sends u h pins [] c c := ⟨rfl, rfl⟩

theorem sends_append {segs segs' : List Segment} {c₁ c₂ c₃ : Clocked} (hfirst : sends u h pins segs c₁ c₂)
    (hsecond : sends u h pins segs' c₂ c₃) : sends u h pins (segs ++ segs') c₁ c₃ := by
  obtain ⟨hend, hlevels⟩ := hfirst
  obtain ⟨hend', hlevels'⟩ := hsecond
  rw [sends, totalUnits_append, Nat.mul_add, edgesWith_add, shownLevels_add, List.flatMap_append, hend, hlevels, hlevels']
  exact ⟨hend', rfl⟩

/-- A segment of some units begins with the unit timer loaded. -/
theorem startSegment_eq (u : Nat) (level : Bool) (n : Nat) {s : State} (hs : s.rsp = none) :
    startSegment u level n s = (s.emitKey level n).timed (BitVec.ofNat 3 n) (u - 1) := by
  cases s
  cases hs
  rfl

/-- The state at the end of an element, with the unit timer run down. -/
def elementSent (d : Bool) (s : State) : State := (s.addSegments (elementSegments d)).timed 1#3 0

variable (hrst : ∀ x, (pins x).rst = false) (hu : 1 ≤ u)
include hrst hu

/-- One segment is sent, and the edge that ends it begins the next one. -/
theorem sends_segment {ph : KeyPhase} (hph : ph ≠ .find) (level : Bool) {n : Nat} (hpos : 0 < n) (hmost : n ≤ 7)
    {s : State} (hs : s.rsp = none) :
    sends u h pins [⟨level, n⟩] ⟨startSegment u level n s, .key ph⟩
      (nextSegment u ph ((s.emitKey level n).timed 1#3 0)) := by
  obtain ⟨k, rfl⟩ : ∃ k, n = k + 1 := Nat.exists_eq_succ_of_ne_zero (Nat.ne_of_gt hpos)
  have hcycles : u * totalUnits [⟨level, k + 1⟩] = ((k + 1) * u - 1) + 1 := by
    have hleast : 1 ≤ (k + 1) * u := Nat.mul_pos hpos hu
    rw [Nat.sub_add_cancel hleast, Nat.mul_comm]
    rfl
  obtain ⟨hend, hlevels⟩ := segment_passes (h := h) hrst hph hu (s.emitKey level (k + 1)) k (by omega)
  have hlast : edgesWith u h pins 1 ⟨(s.emitKey level (k + 1)).timed 1#3 0, .key ph⟩ =
      nextSegment u ph ((s.emitKey level (k + 1)).timed 1#3 0) := by
    rw [edgesWith, edgeWith_key (hrst _)]
    exact keyEdge_nextSegment rfl rfl
  rw [startSegment_eq u level (k + 1) hs, sends, hcycles]
  refine ⟨by rw [edgesWith_add, hend, hlast], ?_⟩
  calc level :: keyLevels u h pins ((k + 1) * u - 1) _
    _ = List.replicate ((k + 1) * u - 1 + 1) level := by rw [hlevels]; rfl
    _ = [⟨level, k + 1⟩].flatMap (fun g : Segment => List.replicate (g.units * u) g.level) := by
      rw [List.flatMap_singleton, Nat.sub_add_cancel (Nat.mul_pos hpos hu)]

/-- A mark is sent and the gap after it. -/
theorem sends_mark_and_gap {n : Nat} (hpos : 0 < n) (hmost : n ≤ 7) {s : State} (hs : s.rsp = none) :
    sends u h pins [⟨true, n⟩, ⟨false, 1⟩] ⟨startSegment u true n s, .key .mark⟩
      (nextSegment u .gap (((s.emitKey true n).emitKey false 1).timed 1#3 0)) := by
  have hmark := sends_segment (h := h) hrst hu (ph := .mark) nofun true hpos hmost hs
  have hgap := sends_segment (h := h) hrst hu (ph := .gap) nofun false (n := 1) (by decide) (by decide)
    (s := (s.emitKey true n).timed 1#3 0) rfl
  exact sends_append hmark hgap

/-- The element at `IDX` is sent (R167, R168, R171). -/
theorem sends_element {s : State} (hs : s.rsp = none) {d : Bool}
    (hd : isDit s.inFlight.entCode s.inFlight.idx.toNat = d) :
    sends u h pins (elementSegments d) ⟨startMark u s, .key .mark⟩
      (nextSegment u .gap (elementSent d s)) := by
  rw [startMark, hd, elementSent]
  cases d with
  | true =>
    rw [← dit_eq]
    exact sends_mark_and_gap hrst hu (by decide) (by decide) hs
  | false =>
    rw [← dah_eq]
    exact sends_mark_and_gap hrst hu (by decide) (by decide) hs

end

/-! ### A whole character by the clock (R166, R171, R182) -/

/-- The elements at the bit positions below `n`, in sending order. -/
def patternBelow (code : BitVec 5) (n : Nat) : List Bool := ((List.range n).map (isDit code)).reverse

theorem patternOf_eq_patternBelow (e : SymbolEntry) : patternOf e = patternBelow e.code e.length.toNat := rfl

theorem patternBelow_succ (code : BitVec 5) (n : Nat) :
    patternBelow code (n + 1) = isDit code n :: patternBelow code n := by
  simp [patternBelow, List.range_succ]

/-- After the gap of the last element comes the letter silence. -/
theorem nextSegment_gap_last (u : Nat) {s : State} (h : s.inFlight.idx.toNat = 0) :
    nextSegment u .gap s = ⟨startSegment u false 3 s, .key .letter⟩ :=
  if_pos (BitVec.eq_of_toNat_eq h)

/-- After the gap of any other element comes the mark of the next one, one bit position below. -/
theorem nextSegment_gap_next (u : Nat) {s : State} {n : Nat} (h : s.inFlight.idx.toNat = n + 1) :
    nextSegment u .gap s = ⟨startMark u (setIdx (s.inFlight.idx - 1#3) s), .key .mark⟩ :=
  if_neg fun hzero => by simp [hzero] at h

theorem keyFound_space (u : Nat) {e : SymbolEntry} (h : e.length = 0#3) (s : State) :
    keyFound u (some e) s = ⟨startSegment u false 7 (loadEntry e s), .key .word⟩ :=
  if_pos h

theorem keyFound_letter (u : Nat) {e : SymbolEntry} (h : e.length ≠ 0#3) (s : State) :
    keyFound u (some e) s = ⟨startMark u (setIdx (e.length - 1#3) (loadEntry e s)), .key .mark⟩ :=
  if_neg h

/-- The edge that looks the character up. -/
theorem edgeWith_find (u h : Nat) {p : Pins} (hrst : p.rst = false) (s : State) :
    edgeWith u h p ⟨s, .key .find⟩ = keyFound u (lookup s.inFlight.arg) s.dropResponse :=
  edgeWith_key hrst

theorem toNat_sub_one {v : BitVec 3} {n : Nat} (h : v.toNat = n + 1) : (v - 1#3).toNat = n := by
  bv_omega

section

variable {u h : Nat} {pins : Clocked → Pins} (hrst : ∀ x, (pins x).rst = false) (hu : 1 ≤ u)
include hrst hu

/-- From the element at `IDX` on: the elements down to bit 0 and the letter silence, and the command completes. -/
theorem sends_elements_and_silence {n : Nat} {s : State} (hs : s.rsp = none) (hidx : s.inFlight.idx.toNat = n) :
    sends u h pins ((patternBelow s.inFlight.entCode (n + 1)).flatMap elementSegments ++ [⟨false, 3⟩])
      ⟨startMark u s, .key .mark⟩
      (keyDone (s.addSegments ((patternBelow s.inFlight.entCode (n + 1)).flatMap elementSegments ++ [⟨false, 3⟩]))) := by
  induction n generalizing s with
  | zero =>
    have helement := sends_element (h := h) hrst hu hs (congrArg (isDit s.inFlight.entCode) hidx)
    have hlast : (elementSent (isDit s.inFlight.entCode 0) s).inFlight.idx.toNat = 0 := hidx
    have hletter := sends_segment (h := h) hrst hu (ph := .letter) nofun false (n := 3) (by decide) (by decide)
      (s := elementSent (isDit s.inFlight.entCode 0) s) rfl
    rw [nextSegment_gap_last u hlast] at helement
    rw [patternBelow_succ, List.flatMap_cons, List.append_assoc, State.addSegments_append]
    exact sends_append helement hletter
  | succ n ih =>
    have helement := sends_element (h := h) hrst hu hs (congrArg (isDit s.inFlight.entCode) hidx)
    have hmore : (elementSent (isDit s.inFlight.entCode (n + 1)) s).inFlight.idx.toNat = n + 1 := hidx
    have hrest := ih (s := setIdx ((elementSent (isDit s.inFlight.entCode (n + 1)) s).inFlight.idx - 1#3)
      (elementSent (isDit s.inFlight.entCode (n + 1)) s)) rfl (toNat_sub_one hmore)
    rw [nextSegment_gap_next u hmore] at helement
    rw [patternBelow_succ, List.flatMap_cons, List.append_assoc, State.addSegments_append]
    exact sends_append helement hrest

/-- Once LOOKUP has answered, the block sends the segments of what it found and the command completes. -/
theorem sends_found {s : State} (hs : s.rsp = none) (found : Option SymbolEntry) :
    sends u h pins (foundSegments found) (keyFound u found s) (keyDone (s.addSegments (foundSegments found))) := by
  cases found with
  | none =>
    rw [foundSegments, State.addSegments_nil]
    exact sends_nil _
  | some e =>
    have hsegments : foundSegments (some e) = entrySegments e := rfl
    rw [hsegments]
    by_cases hspace : e.length = 0#3
    · have hword := sends_segment (h := h) hrst hu (ph := .word) nofun false (n := 7) (by decide) (by decide)
        (s := loadEntry e s) hs
      rw [entrySegments_space hspace, keyFound_space u hspace]
      exact hword
    · have hpos : 0 < e.length.toNat := Nat.pos_of_ne_zero fun hzero => hspace (BitVec.eq_of_toNat_eq hzero)
      obtain ⟨n, hn⟩ : ∃ n, e.length.toNat = n + 1 := Nat.exists_eq_succ_of_ne_zero (Nat.ne_of_gt hpos)
      have helements := sends_elements_and_silence (h := h) hrst hu
        (s := setIdx (e.length - 1#3) (loadEntry e s)) hs (toNat_sub_one hn)
      rw [entrySegments_letter hspace, patternOf_eq_patternBelow, hn, keyFound_letter u hspace]
      exact helements

end

/-! ### SEND_CHAR from acceptance to completion (R42, R166, R182) -/

/-- The state in which LOOKUP's answer for `c` is taken, from a block at rest in `s`. -/
def searched (c : Byte) (s : State) : State := (s.dropResponse.redraw.load (.sendChar c)).dropResponse

/-- One edge accepts the command and one looks the character up; the segments follow, and the command completes. -/
theorem sendChar_by_clock {u h : Nat} (c : Byte) (d : Draw) {x : Clocked} (hu : 1 ≤ u) (hx : x.atRest) :
    sends u h (answerPins d) (charSegments c)
      (edgesWith u h (answerPins d) 1 (edgeWith u h (offerPins (encode (.sendChar c)) x) x))
      (keyDone ((searched c x.st).addSegments (charSegments c))) := by
  have hrst : ∀ x, (answerPins d x).rst = false := fun _ => rfl
  have hlookup : edgesWith u h (answerPins d) 1 (edgeWith u h (offerPins (encode (.sendChar c)) x) x) =
      keyFound u (lookup c) (searched c x.st) := by
    rw [edge_accepts hx (decode_encode _) rfl]
    exact edgeWith_find u h (hrst ⟨x.st.dropResponse.redraw.load (.sendChar c), .key .find⟩) _
  rw [hlookup, charSegments_eq]
  exact sends_found hrst hu rfl (lookup c)

/-- What completes is the state of `exec` (R166), but for the registers in flight and the draws. -/
theorem keyDone_searched (c : Byte) (segs : List Segment) (s : State) :
    (keyDone ((searched c s).addSegments segs)).st.endState = ((s.addSegments segs).complete 0x00#8 false).endState ∧
    (keyDone ((searched c s).addSegments segs)).st.rsp = ((s.addSegments segs).complete 0x00#8 false).rsp := by
  simp [State.endState, keyDone, searched, State.addSegments]

/-- Settles O56: it holds; the segments of the character take its units, and what completes is the state of `exec`. -/
theorem clockedSendCharRefines : Obligations.ClockedSendCharRefines := by
  intro u h c d x hu hx
  obtain ⟨hend, -⟩ := sendChar_by_clock (h := h) c d hu hx
  rw [runCommand, edgesWith_add, ← totalUnits_charSegments, hend]
  exact ⟨_, exec_sendChar c x.st, rfl, keyDone_searched c (charSegments c) x.st⟩

/-- Settles O57: it holds; the levels after each edge are those shown from the lookup on, the last one at completion. -/
theorem keyHoldsForExactCycles : Obligations.KeyHoldsForExactCycles := by
  intro u h c d x hu hx
  obtain ⟨hend, hlevels⟩ := sendChar_by_clock (h := h) c d hu hx
  have hlast : (keyDone ((searched c x.st).addSegments (charSegments c))).st.key =
      if (lookup c).isSome then false else x.st.key := addSegments_charSegments_key c (searched c x.st)
  rw [← totalUnits_charSegments, Nat.add_comm, keyLevels_eq_shownLevels, shownLevels_add]
  simp only [edgesWith] at hend hlevels
  rw [hend, hlevels, shownLevels, hlast]
  rfl

end Sys2Proof.Proofs

namespace Sys2Proof.Proofs

open Sys2Proof.Machine

/-! ### Bytes bit by bit (R34, R208) -/

/-- One more bit into the shift register, at the low end. -/
def shiftIn (b : Byte) (x : Bool) : Byte := (b <<< 1) ||| BitVec.setWidth 8 (BitVec.ofBool x)

/-- The eight bits of a byte in sending order. -/
def sentBits (d : Byte) : List Bool := (List.range 8).map (sentBit d)

@[simp] theorem getElem_shiftIn_zero (b : Byte) (x : Bool) : (shiftIn b x)[0] = x := by
  simp [shiftIn]

@[simp] theorem getElem_shiftIn_succ (b : Byte) (x : Bool) {k : Nat} (hk : k + 1 < 8) :
    (shiftIn b x)[k + 1] = b[k] := by
  simp [shiftIn]

/-- Eight bits shifted in replace what the register held. -/
theorem foldl_shiftIn_sentBits (b d : Byte) : (sentBits d).foldl shiftIn b = d := by
  apply BitVec.eq_of_getElem_eq
  intro k hk
  interval_cases k <;> simp [sentBits, sentBit, List.range_succ]

theorem byteOfBits_sentBits (d : Byte) : byteOfBits (sentBits d) = d := foldl_shiftIn_sentBits 0#8 d

theorem sentBit_of_lt (d : Byte) {k : Nat} (hk : k < 8) : sentBit d k = d.getLsbD (7 - k) := if_pos hk

/-- Shifting the register brings up the next bit to send. -/
theorem sentBit_shiftLeft (b : Byte) {k : Nat} (hk : k < 7) : sentBit (b <<< 1) k = sentBit b (k + 1) := by
  have hposition : 7 - k = 7 - (k + 1) + 1 := by omega
  have hin : 6 - k + 1 < 8 := by omega
  rw [sentBit_of_lt _ (by omega), sentBit_of_lt _ (by omega), BitVec.getLsbD_shiftLeft, hposition]
  simp [hin]

/-! ### Listings run on the wires, part by part (R201 to R206) -/

theorem runWire_append {ls : List WireLine} {tgt : List Bool} (hlength : tgt.length = ls.length) (ls' : List WireLine)
    (tgt' : List Bool) (s : State) :
    runWire (ls ++ ls') (tgt ++ tgt') s = runWire ls' tgt' (runWire ls tgt s) := by
  induction ls generalizing tgt s with
  | nil => rw [List.eq_nil_of_length_eq_zero hlength]; rfl
  | cons l ls ih =>
    obtain ⟨v, tgt, rfl⟩ := List.exists_cons_of_length_eq_add_one hlength
    exact ih (Nat.succ.inj hlength) _

theorem wireLevels_append {ls : List WireLine} {tgt : List Bool} (hlength : tgt.length = ls.length)
    (ls' : List WireLine) (tgt' : List Bool) (s : State) :
    wireLevels (ls ++ ls') (tgt ++ tgt') s = wireLevels ls tgt s ++ wireLevels ls' tgt' (runWire ls tgt s) := by
  induction ls generalizing tgt s with
  | nil => rw [List.eq_nil_of_length_eq_zero hlength]; rfl
  | cons l ls ih =>
    obtain ⟨v, tgt, rfl⟩ := List.exists_cons_of_length_eq_add_one hlength
    exact congrArg (List.cons _) (ih (Nat.succ.inj hlength) _)

/-- The three lines of a bit of WRITE_BYTE (R204). -/
def writeBit : List WireLine := [.sdaShift, .sclRaise, .sclLower]

/-- The three lines of a bit of READ_BYTE (R205). -/
def readBit : List WireLine := [.sclRaise, .sample, .sclLower]

/-- The acknowledge pulse of WRITE_BYTE (R204). -/
def writeAck : List WireLine := [.sdaRelease, .sclRaise, .sample, .sclLower]

/-- The acknowledge pulse of READ_BYTE (R205). -/
def readAck (a : Bool) : List WireLine := [if a then .sdaLow else .sdaRelease, .sclRaise, .sclLower, .sdaRelease]

/-- The target's drive during bit `k` of a byte it supplies (R205). -/
def bitDrive (d : Byte) (k : Nat) : List Bool := [sentBit d k, sentBit d k, sentBit d (k + 1)]

/-- WRITE_BYTE is eight bits, in which the target drives nothing, and the acknowledge pulse. -/
theorem runWire_writeByte (brk : Bool) (b : Byte) (d : Draw) (s : State) :
    runWire (wireListing brk (.writeByte b)) (targetDrive d (.writeByte b)) s =
      runWire writeAck [d.nack, d.nack, d.nack, d.nack]
        (runWire (List.replicate 8 writeBit).flatten (List.replicate 24 true) s) :=
  runWire_append rfl _ _ s

/-- READ_BYTE releases the data line, takes eight bits, and ends with the acknowledge pulse. -/
theorem runWire_readByte (brk a : Bool) (d : Draw) (s : State) :
    runWire (wireListing brk (.readByte a)) (targetDrive d (.readByte a)) s =
      runWire (readAck a) []
        (runWire (List.replicate 8 readBit).flatten ((List.range 8).map (bitDrive d.data)).flatten
          (wireApply (s.levels (driveAt (drivesByte d.data))).1 .sdaRelease s)) :=
  runWire_append (ls := .sdaRelease :: (List.replicate 8 readBit).flatten) (tgt := drivesByte d.data) rfl
    (readAck a) [] s

theorem runWire_bits_cons {bit : List WireLine} {drive : List Bool} (hlength : drive.length = bit.length) (n : Nat)
    (drives : List (List Bool)) (s : State) :
    runWire (List.replicate (n + 1) bit).flatten (drive :: drives).flatten s =
      runWire (List.replicate n bit).flatten drives.flatten (runWire bit drive s) := by
  rw [List.replicate_succ, List.flatten_cons, List.flatten_cons, runWire_append hlength]

/-- A bit read is shifted in as the target drives it. -/
theorem runWire_readBit_shr (d : Byte) (k : Nat) {s : State} (hsda : s.sdaO = true) :
    (runWire readBit (bitDrive d k) s).inFlight.shr = shiftIn s.inFlight.shr (sentBit d k) := by
  show shiftIn s.inFlight.shr (s.sdaO && sentBit d k) = _
  rw [hsda, Bool.true_and]

/-- Bits read are shifted in one after the other. -/
theorem runWire_readBits_shr (d : Byte) (ks : List Nat) {s : State} (hsda : s.sdaO = true) :
    (runWire (List.replicate ks.length readBit).flatten (ks.map (bitDrive d)).flatten s).inFlight.shr =
      (ks.map (sentBit d)).foldl shiftIn s.inFlight.shr := by
  induction ks generalizing s with
  | nil => rfl
  | cons k ks ih =>
    have hbit : (runWire readBit (bitDrive d k) s).sdaO = true := hsda
    rw [List.length_cons, List.map_cons, runWire_bits_cons rfl, ih hbit, runWire_readBit_shr d k hsda]
    rfl

theorem runWire_readAck_shr (a : Bool) (s : State) : (runWire (readAck a) [] s).inFlight.shr = s.inFlight.shr := by
  cases a <;> rfl

/-- READ_BYTE samples the byte the target supplies. -/
theorem runWire_readByte_shr (brk a : Bool) (d : Draw) (s : State) :
    (runWire (wireListing brk (.readByte a)) (targetDrive d (.readByte a)) s).inFlight.shr = d.data := by
  rw [runWire_readByte, runWire_readAck_shr]
  exact (runWire_readBits_shr d.data (List.range 8) rfl).trans (foldl_shiftIn_sentBits _ d.data)

/-- WRITE_BYTE samples the target's acknowledge bit. -/
theorem runWire_writeByte_shr (brk : Bool) (b : Byte) (d : Draw) (s : State) :
    (runWire (wireListing brk (.writeByte b)) (targetDrive d (.writeByte b)) s).inFlight.shr.getLsbD 0 = d.nack := by
  rw [runWire_writeByte]
  exact getElem_shiftIn_zero _ d.nack

/-! ### The lines and the registers when a listing ends (R201 to R206, R210) -/

/-- How the block drives the two lines at the end of a bus command's listing (R201 to R206). -/
def exitLines : Instr → Levels
  | .start => (false, false)
  | .writeByte _ | .readByte _ => (true, false)
  | .stop | .idle | .sendChar _ => (true, true)

theorem runWire_exitLines {i : Instr} (hbus : isBusCommand i = true) (brk : Bool) (d : Draw) (s : State) :
    (runWire (wireListing brk i) (targetDrive d i) s).sdaO = (exitLines i).1 ∧
    (runWire (wireListing brk i) (targetDrive d i) s).sclO = (exitLines i).2 := by
  cases i with
  | start => cases brk <;> exact ⟨rfl, rfl⟩
  | stop | idle => exact ⟨rfl, rfl⟩
  | writeByte b => rw [runWire_writeByte]; exact ⟨rfl, rfl⟩
  | readByte a => rw [runWire_readByte]; exact ⟨rfl, rfl⟩
  | sendChar c => cases hbus

/-- The effect of a bus command leaves the lines: STOP and IDLE release those that are released already. -/
theorem finishBus_lines (i : Instr) {s : State} (hsda : s.sdaO = (exitLines i).1) (hscl : s.sclO = (exitLines i).2) :
    (finishBus i s).sdaO = s.sdaO ∧ (finishBus i s).sclO = s.sclO := by
  cases i with
  | stop | idle => exact ⟨hsda.symm, hscl.symm⟩
  | _ => exact ⟨rfl, rfl⟩

/-- Settles O51: it holds; the last lines of each listing set the two drives, and the effect does not change them. -/
theorem wireLevelExits : Obligations.WireLevelExits := by
  intro d s
  have hexit {i : Instr} (hbus : isBusCommand i = true) :
      (wireRun i d s).sdaO = (exitLines i).1 ∧ (wireRun i d s).sclO = (exitLines i).2 :=
    runWire_exitLines hbus s.brk d _
  refine ⟨⟨hexit rfl, hexit rfl, hexit rfl⟩, fun b => hexit rfl, fun a => hexit rfl, fun i hbus => ?_⟩
  obtain ⟨hsda, hscl⟩ := hexit hbus
  exact finishBus_lines i hsda hscl

/-- What the shift register holds when the listing of a command has run that the draw answers (R204, R205). -/
def holdsAnswer (d : Draw) (shr : Byte) : Instr → Prop
  | .writeByte _ => shr.getLsbD 0 = d.nack
  | .readByte _ => shr = d.data
  | .start | .stop | .sendChar _ | .idle => True

theorem runWire_holdsAnswer (i : Instr) (brk : Bool) (d : Draw) (s : State) :
    holdsAnswer d (runWire (wireListing brk i) (targetDrive d i) s).inFlight.shr i := by
  cases i with
  | writeByte b => exact runWire_writeByte_shr brk b d s
  | readByte a => exact runWire_readByte_shr brk a d s
  | _ => trivial

/-- The values the transaction level leaves free, chosen as the wires show them: the target lets the command complete and
answers as in `d`, and the lines are as the listing leaves them. -/
def drawShown (d : Draw) (s : State) : Draw := { d with hold := false, sda := s.sdaO, scl := s.sclO }

/-- The effect of a bus command, from a state that its listing reached, is what the transaction level says (R210). -/
theorem finishBus_refines {i : Instr} (hbus : isBusCommand i = true) {d : Draw} {s t : State}
    (hreached : t.endState = { s.endState with busy := t.busy, sdaO := t.sdaO, sclO := t.sclO })
    (hanswer : holdsAnswer d t.inFlight.shr i) :
    (finishBus i t).endState = (finished i (s.withDraw (drawShown d t))).endState ∧
    (finishBus i t).rsp = (finished i (s.withDraw (drawShown d t))).rsp := by
  cases s
  cases t
  simp only [State.endState, EndState.mk.injEq] at hreached
  obtain ⟨rfl, rfl, rfl, rfl, rfl, -, -, -, rfl, rfl, rfl⟩ := hreached
  cases i with
  | start | stop | idle => exact ⟨rfl, rfl⟩
  | writeByte b =>
    rw [finishBus, show BitVec.getLsbD _ 0 = d.nack from hanswer]
    exact ⟨rfl, rfl⟩
  | readByte a =>
    rw [finishBus, show InFlight.shr _ = d.data from hanswer]
    exact ⟨rfl, rfl⟩
  | sendChar c => cases hbus

/-- So some choice of the free values makes `exec` end as the wires do. -/
theorem finishBus_refines_exec {i : Instr} (hbus : isBusCommand i = true) {d : Draw} {s t : State}
    (hafter : CommandList.bracketAfter i s.brk ≠ none)
    (hreached : t.endState = { s.endState with busy := t.busy, sdaO := t.sdaO, sclO := t.sclO })
    (hanswer : holdsAnswer d t.inFlight.shr i) :
    ∃ (d' : Draw) (t' : State), d'.nack = d.nack ∧ d'.data = d.data ∧ exec i (s.withDraw d') = .next t' ∧
      (finishBus i t).endState = t'.endState ∧ (finishBus i t).rsp = t'.rsp := by
  have hlegal : bracketLegal i s.brk = true := by rwa [bracketLegal_eq_isSome, Option.isSome_iff_ne_none]
  exact ⟨drawShown d t, _, rfl, rfl, exec_finished hlegal (stalls_of_released i rfl), finishBus_refines hbus hreached hanswer⟩

/-- Nothing but the lines and the registers in flight has changed. -/
def onlyWires (s t : State) : Prop :=
  ∃ (sda scl : Bool) (fl : InFlight), t = { s with sdaO := sda, sclO := scl, inFlight := fl }

theorem onlyWires_wireApply {s t : State} (h : onlyWires s t) (v : Bool) (l : WireLine) :
    onlyWires s (wireApply v l t) := by
  obtain ⟨sda, scl, fl, rfl⟩ := h
  cases l <;> exact ⟨_, _, _, rfl⟩

theorem onlyWires_rsp {s t : State} (h : onlyWires s t) : t.rsp = s.rsp := by
  obtain ⟨sda, scl, fl, rfl⟩ := h
  rfl

theorem onlyWires_runWire (ls : List WireLine) (tgt : List Bool) (s : State) : onlyWires s (runWire ls tgt s) :=
  runWire_frame ls tgt s

/-- What an accepted command does on the wires shows in the end state as `BUSY` and the lines alone. -/
theorem endState_of_load {i : Instr} {s t : State} (h : onlyWires (s.load i) t) :
    t.endState = { s.endState with busy := t.busy, sdaO := t.sdaO, sclO := t.sclO } := by
  obtain ⟨sda, scl, fl, rfl⟩ := h
  rfl

/-- Settles O52: it holds; a listing reaches only the lines and the registers in flight, and leaves the target's answer
in the shift register. -/
theorem wireLevelRefinesTransactionLevel : Obligations.WireLevelRefinesTransactionLevel := fun i d s hbus hafter =>
  finishBus_refines_exec hbus hafter (endState_of_load (s := s.withDraw d) (onlyWires_runWire _ _ _))
    (runWire_holdsAnswer i s.brk d _)

end Sys2Proof.Proofs

namespace Sys2Proof.Proofs

open Sys2Proof.Machine

/-! ### A bus command by the clock, edge by edge (R207, R209) -/

@[simp] theorem dropResponse_of_none {s : State} (hs : s.rsp = none) : s.dropResponse = s := by
  cases s
  cases hs
  rfl

@[simp] theorem wireApply_rsp (sdaI : Bool) (l : WireLine) (s : State) : (wireApply sdaI l s).rsp = s.rsp := by
  cases l <;> rfl

/-- Settles O54: it holds, since an edge at such a wait changes nothing but that an old response is over. -/
theorem clockHeldLowNeverCompletes : Obligations.ClockHeldLowNeverCompletes := by
  intro u h n pins c i todo gap hlow hseq
  induction n generalizing c with
  | zero => exact ⟨rfl, rfl⟩
  | succ n ih =>
    obtain ⟨s, seq⟩ := c
    obtain rfl : seq = .bus i todo gap true := hseq
    obtain ⟨hrst, hscl⟩ := hlow ⟨s, .bus i todo gap true⟩
    rw [edgesWith, edge_waits hrst hscl]
    exact ih ⟨s.dropResponse, .bus i todo gap true⟩ rfl

/-- An edge at which a line of a listing is due: a wait for the clock line ends if the clock line is high. -/
theorem edgeWith_due {u h : Nat} {p : Pins} {s : State} {i : Instr} {todo : List WireLine} {w : Bool}
    (hrst : p.rst = false) (hdue : w = true → p.sclI = true) :
    edgeWith u h p ⟨s, .bus i todo 0 w⟩ = busLine h p i todo s.dropResponse := by
  cases w with
  | false => simp [edgeWith, busEdge, hrst]
  | true => simp [edgeWith, busEdge, hrst, hdue rfl]

/-- An edge between two lines. -/
theorem edgeWith_gap {u h : Nat} {p : Pins} {s : State} {i : Instr} {todo : List WireLine} {gap : Nat} {w : Bool}
    (hrst : p.rst = false) (hdue : w = true → p.sclI = true) :
    edgeWith u h p ⟨s, .bus i todo (gap + 1) w⟩ = ⟨s.dropResponse, .bus i todo gap false⟩ := by
  cases w with
  | false => simp [edgeWith, busEdge, hrst]
  | true => simp [edgeWith, busEdge, hrst, hdue rfl]

section

variable {u h : Nat} {pins : Clocked → Pins} (hrst : ∀ x, (pins x).rst = false)
include hrst

/-- The edges between two lines pass, and nothing changes. -/
theorem gap_passes {s : State} (hs : s.rsp = none) {i : Instr} {todo : List WireLine} (gap : Nat) {w : Bool}
    (hdue : w = true → (pins ⟨s, .bus i todo gap w⟩).sclI = true) :
    ∃ w', edgesWith u h pins gap ⟨s, .bus i todo gap w⟩ = ⟨s, .bus i todo 0 w'⟩ ∧ (w' = true → w = true) := by
  induction gap generalizing w with
  | zero => exact ⟨w, rfl, id⟩
  | succ gap ih =>
    obtain ⟨w', hend, hfalse⟩ := ih (w := false) nofun
    refine ⟨w', ?_, fun hw' => absurd (hfalse hw') nofun⟩
    rw [edgesWith, edgeWith_gap (hrst _) hdue, dropResponse_of_none hs, hend]

/-- A line that is due is done at once, and `h` edges later the next one is due (R209). The block then waits for the clock
line only if the line raised it. -/
theorem line_takes_half_period (hh : 1 ≤ h) {s : State} {i : Instr} {l : WireLine} {ls : List WireLine} {w : Bool}
    (hdue : w = true → (pins ⟨s, .bus i (l :: ls) 0 w⟩).sclI = true)
    (hrises : l = .sclRaise → ∀ x, x.st.sclO = true → (pins x).sclI = true) :
    ∃ w', edgesWith u h pins h ⟨s, .bus i (l :: ls) 0 w⟩ =
        ⟨wireApply (pins ⟨s, .bus i (l :: ls) 0 w⟩).sdaI l s.dropResponse, .bus i ls 0 w'⟩ ∧
      (w' = true → l = .sclRaise) := by
  obtain ⟨gap, rfl⟩ : ∃ gap, h = gap + 1 := Nat.exists_eq_succ_of_ne_zero (Nat.ne_of_gt hh)
  have hwait {sdaI : Bool} : decide (l = .sclRaise) = true →
      (pins ⟨wireApply sdaI l s.dropResponse, .bus i ls gap (decide (l = .sclRaise))⟩).sclI = true := by
    intro hl
    obtain rfl := of_decide_eq_true hl
    exact hrises rfl _ rfl
  obtain ⟨w', hend, hw'⟩ := gap_passes (u := u) (h := gap + 1) hrst (by simp) gap hwait
  exact ⟨w', by rw [edgesWith, edgeWith_due (hrst _) hdue]; exact hend, fun h => of_decide_eq_true (hw' h)⟩

/-- With no line left, one edge completes the command. -/
theorem listing_done_completes {s : State} {i : Instr} {w : Bool}
    (hdue : w = true → (pins ⟨s, .bus i [] 0 w⟩).sclI = true) :
    edgesWith u h pins 1 ⟨s, .bus i [] 0 w⟩ = ⟨finishBus i s.dropResponse.redraw, .idle⟩ :=
  edgeWith_due (u := u) (h := h) (hrst _) hdue

end

/-- Settles O59: it holds; a line that is due takes `BUS_HALF_CYCLES` edges, the first of which does it. -/
theorem linesAreHalfPeriodsApart : Obligations.LinesAreHalfPeriodsApart := by
  intro u h pins s i todo w hh hpins hw
  have hrst : ∀ x, (pins x).rst = false := fun x => (hpins x).1
  have hrises : ∀ x : Clocked, x.st.sclO = true → (pins x).sclI = true := fun x => (hpins x).2
  refine ⟨?_, ?_⟩
  · rintro l ls rfl
    obtain ⟨w', hend, hw'⟩ := line_takes_half_period (u := u) hrst hh (i := i) (ls := ls)
      (fun hwait => hrises ⟨s, _⟩ (hw hwait)) (fun _ => hrises)
    rw [hend]
    refine ⟨rfl, w', rfl, fun hwait => ?_⟩
    rw [hw' hwait]
    rfl
  · rintro rfl
    rw [listing_done_completes hrst fun hwait => hrises ⟨s, _⟩ (hw hwait)]
    exact ⟨rfl, rfl⟩

end Sys2Proof.Proofs

namespace Sys2Proof.Proofs

open Sys2Proof.Machine

/-! ### A whole bus command by the clock (R118, R209, R210) -/

/-- Only a sample reads the level of the data line. -/
theorem wireApply_sdaI_congr {v v' : Bool} {l : WireLine} (h : l = .sample → v = v') (s : State) :
    wireApply v l s = wireApply v' l s := by
  cases l with
  | sample => rw [h rfl]
  | _ => rfl

/-- `BITCNT` counts the lines that end a clock pulse (R34). -/
theorem wireApply_bitcnt (v : Bool) (l : WireLine) (s : State) :
    (wireApply v l s).inFlight.bitcnt = if l = .sclLower then s.inFlight.bitcnt + 1#4 else s.inFlight.bitcnt := by
  cases l <;> rfl

/-- The target's drive of the data line during a bus command, told by `BITCNT` (R204, R205). -/
def answerAt (d : Draw) : Instr → BitVec 4 → Bool
  | .writeByte _, k => if k = 8#4 then d.nack else true
  | .readByte _, k => sentBit d.data k.toNat
  | _, _ => true

theorem clockedData_bus (d : Draw) (i : Instr) (s : State) (todo : List WireLine) (gap : Nat) (w : Bool) :
    clockedData d ⟨s, .bus i todo gap w⟩ = answerAt d i s.inFlight.bitcnt := by
  cases i <;> rfl

/-- A drive told by the pulse count and a drive given line by line are the same at every sample of a listing, `k` pulses
being done before it. -/
def agreesAtSamples (drive : BitVec 4 → Bool) : List WireLine → List Bool → BitVec 4 → Prop
  | [], _, _ => True
  | l :: ls, tgt, k =>
    (l = .sample → drive k = tgt.headD true) ∧
      agreesAtSamples drive ls tgt.tail (if l = .sclLower then k + 1#4 else k)

/-- The target of the clocked level answers each listing as the target of the wire level does. -/
theorem answerAt_agreesAtSamples (d : Draw) (i : Instr) (brk : Bool) :
    agreesAtSamples (answerAt d i) (wireListing brk i) (targetDrive d i) 0#4 := by
  cases i with
  | start => cases brk <;> simp [agreesAtSamples, wireListing]
  | stop | idle | sendChar => simp [agreesAtSamples, wireListing]
  | writeByte b => simp [agreesAtSamples, wireListing, eightBits, List.replicate, targetDrive, drivesAck, answerAt]
  | readByte a =>
    cases a <;>
      simp [agreesAtSamples, wireListing, eightBits, List.replicate, List.range_succ, targetDrive, drivesByte, answerAt]

/-- The listings with a wait for the clock line are those of the commands that may stall, inside a bracket (R118, R207). -/
theorem sclRaise_mem_wireListing {i : Instr} (hbus : isBusCommand i = true) {brk : Bool}
    (hlegal : bracketLegal i brk = true) : .sclRaise ∈ wireListing brk i ↔ (mayStall i && brk) = true := by
  cases i with
  | start => cases brk <;> simp [wireListing, mayStall]
  | stop | writeByte | readByte =>
    obtain rfl : brk = true := hlegal
    simp [wireListing, eightBits, mayStall]
  | idle => simp [wireListing, mayStall]
  | sendChar => cases hbus

/-- With a target that does not hold the bus the clock line is high when the block releases it (R200). -/
theorem answerPins_sclI {d : Draw} {c : Clocked} (hfree : d.hold = false ∧ c.st.sclO = true) :
    (answerPins d c).sclI = true := by
  obtain ⟨hhold, hscl⟩ := hfree
  show (c.st.sclO && !d.hold) = true
  rw [hscl, hhold]
  rfl

/-- A target that holds the bus keeps the clock line low (R118). -/
theorem answerPins_sclI_held {d : Draw} (hheld : d.hold = true) (c : Clocked) : (answerPins d c).sclI = false := by
  show (c.st.sclO && !d.hold) = false
  rw [hheld]
  exact Bool.and_false _

/-- The rest of a listing run by the clock ends as on the wires, and the command completes. -/
theorem listing_by_clock {u h : Nat} (hh : 1 ≤ h) {d : Draw} {i : Instr} {ls : List WireLine} {tgt : List Bool}
    {s : State} {w : Bool} (hs : s.rsp = none) (hagree : agreesAtSamples (answerAt d i) ls tgt s.inFlight.bitcnt)
    (hfree : .sclRaise ∈ ls → d.hold = false) (hdue : w = true → d.hold = false ∧ s.sclO = true) :
    edgesWith u h (answerPins d) (ls.length * h + 1) ⟨s, .bus i ls 0 w⟩ =
      ⟨finishBus i (runWire ls tgt s).redraw, .idle⟩ := by
  have hrst : ∀ x, (answerPins d x).rst = false := fun _ => rfl
  induction ls generalizing tgt s w with
  | nil =>
    rw [List.length_nil, Nat.zero_mul, listing_done_completes hrst fun hw => answerPins_sclI (hdue hw),
      dropResponse_of_none hs]
    rfl
  | cons l ls ih =>
    obtain ⟨hsample, hrest⟩ := hagree
    have hhold (hl : l = .sclRaise) : d.hold = false := hfree (hl ▸ List.mem_cons_self)
    obtain ⟨w', hline, hw'⟩ := line_takes_half_period (u := u) hrst hh (i := i) (l := l) (ls := ls)
      (fun hw => answerPins_sclI (hdue hw)) (fun hl _ hscl => answerPins_sclI ⟨hhold hl, hscl⟩)
    have hsame : wireApply (answerPins d ⟨s, .bus i (l :: ls) 0 w⟩).sdaI l s =
        wireApply (s.levels (driveAt tgt)).1 l s := by
      refine wireApply_sdaI_congr (fun hl => ?_) s
      show (s.sdaO && clockedData d _) = (s.sdaO && tgt.headD true)
      rw [clockedData_bus, hsample hl]
    rw [dropResponse_of_none hs, hsame] at hline
    rw [List.length_cons, Nat.succ_mul, Nat.add_comm _ h, Nat.add_assoc, edgesWith_add, hline, runWire]
    refine ih (by rw [wireApply_rsp, hs]) (by rw [wireApply_bitcnt]; exact hrest)
      (fun hmem => hfree (List.mem_cons_of_mem _ hmem)) (fun hwait => ?_)
    obtain rfl := hw' hwait
    exact ⟨hhold rfl, rfl⟩

theorem startSeq_bus {i : Instr} (hbus : isBusCommand i = true) (brk : Bool) :
    startSeq brk i = .bus i (wireListing brk i) 0 false := by
  cases i with
  | sendChar c => cases hbus
  | _ => rfl

/-- From acceptance on: a bus command that the target does not hold up ends, one edge after its last half period, as on
the wires. -/
theorem busCommand_by_clock {u h : Nat} (hh : 1 ≤ h) {i : Instr} (hbus : isBusCommand i = true) (d : Draw) {x : Clocked}
    (hx : x.atRest) (hlegal : bracketLegal i x.st.brk = true) (hgo : (mayStall i && x.st.brk && d.hold) = false) :
    runCommand u h i d ((wireListing x.st.brk i).length * h + 1) x =
      ⟨finishBus i (runWire (wireListing x.st.brk i) (targetDrive d i) (x.st.dropResponse.redraw.load i)).redraw,
        .idle⟩ := by
  have hfree (hmem : .sclRaise ∈ wireListing x.st.brk i) : d.hold = false := by
    rw [(sclRaise_mem_wireListing hbus hlegal).mp hmem] at hgo
    exact hgo
  rw [runCommand, edge_accepts hx (decode_encode i) hlegal, startSeq_bus hbus]
  exact listing_by_clock hh rfl (answerAt_agreesAtSamples d i _) hfree nofun

/-- A bus command on its way to a wait for the clock line or in it, nothing having happened since `s` but on the wires. -/
def heldUp (i : Instr) (s : State) (c : Clocked) : Prop :=
  ∃ (t : State) (todo : List WireLine) (gap : Nat) (w : Bool),
    c = ⟨t, .bus i todo gap w⟩ ∧ onlyWires s t ∧ (w = false → .sclRaise ∈ todo)

/-- With the clock line kept low, no edge leads past the wait (R207). -/
theorem heldUp_edgeWith {u h : Nat} {p : Pins} {i : Instr} {s : State} {c : Clocked} (hrst : p.rst = false)
    (hlow : p.sclI = false) (hs : s.rsp = none) (hheld : heldUp i s c) : heldUp i s (edgeWith u h p c) := by
  obtain ⟨t, todo, gap, w, rfl, hwires, hmem⟩ := hheld
  have ht : t.rsp = none := (onlyWires_rsp hwires).trans hs
  cases w with
  | true =>
    rw [edge_waits hrst hlow, dropResponse_of_none ht]
    exact ⟨t, todo, gap, true, rfl, hwires, hmem⟩
  | false =>
    cases gap with
    | succ gap =>
      rw [edgeWith_gap hrst (by simp), dropResponse_of_none ht]
      exact ⟨t, todo, gap, false, rfl, hwires, hmem⟩
    | zero =>
      rw [edgeWith_due hrst (by simp), dropResponse_of_none ht]
      obtain ⟨l, ls, rfl⟩ := List.exists_cons_of_ne_nil (List.ne_nil_of_mem (hmem rfl))
      refine ⟨_, ls, h - 1, decide (l = .sclRaise), rfl, onlyWires_wireApply hwires p.sdaI l, fun hl => ?_⟩
      exact (List.mem_cons.mp (hmem rfl)).resolve_left (Ne.symm (of_decide_eq_false hl))

theorem heldUp_edgesWith {u h : Nat} {d : Draw} (hhold : d.hold = true) {i : Instr} {s : State} (hs : s.rsp = none)
    (n : Nat) {c : Clocked} (hheld : heldUp i s c) : heldUp i s (edgesWith u h (answerPins d) n c) := by
  induction n generalizing c with
  | zero => exact hheld
  | succ n ih => exact ih (heldUp_edgeWith rfl (answerPins_sclI_held hhold c) hs hheld)

/-- From acceptance on: a bus command that the target holds up never gets past its first wait (R118, R207). -/
theorem busCommand_heldUp {u h : Nat} {i : Instr} (hbus : isBusCommand i = true) {d : Draw} {x : Clocked}
    (hx : x.atRest) (hlegal : bracketLegal i x.st.brk = true) (hstall : (mayStall i && x.st.brk) = true)
    (hhold : d.hold = true) (n : Nat) :
    heldUp i (x.st.dropResponse.redraw.load i) (runCommand u h i d n x) := by
  rw [runCommand, edge_accepts hx (decode_encode i) hlegal, startSeq_bus hbus]
  refine heldUp_edgesWith hhold rfl n ⟨_, _, 0, false, rfl, ⟨_, _, _, rfl⟩, fun _ => ?_⟩
  exact (sclRaise_mem_wireListing hbus hlegal).mpr hstall

/-- The free values drawn at completion reach neither the end state nor the response. -/
theorem finishBus_redraw (i : Instr) (s : State) :
    (finishBus i s.redraw).endState = (finishBus i s).endState ∧ (finishBus i s.redraw).rsp = (finishBus i s).rsp := by
  cases i <;> exact ⟨rfl, rfl⟩

/-- Settles O58: it holds; a run that no wait holds up does the listing of the wire level, and one that is held up changes
nothing but the wires. -/
theorem clockedBusCommandRefines : Obligations.ClockedBusCommandRefines := by
  intro u h i d x hh hbus hafter hx
  have hlegal : bracketLegal i x.st.brk = true := by rwa [bracketLegal_eq_isSome, Option.isSome_iff_ne_none]
  refine ⟨fun hgo => ?_, fun hstop n => ?_⟩
  · obtain ⟨d', t, hnack, hdata, hexec, hend, hrsp⟩ := finishBus_refines_exec hbus hafter
      (endState_of_load (s := x.st.dropResponse.redraw) (onlyWires_runWire (wireListing x.st.brk i) (targetDrive d i) _))
      (runWire_holdsAnswer i x.st.brk d _)
    refine ⟨(wireListing x.st.brk i).length * h + 1, d', t, hnack, hdata, hexec, ?_⟩
    rw [busCommand_by_clock hh hbus d hx hlegal hgo]
    obtain ⟨hend', hrsp'⟩ := finishBus_redraw i
      (runWire (wireListing x.st.brk i) (targetDrive d i) (x.st.dropResponse.redraw.load i))
    exact ⟨rfl, hend'.trans hend, hrsp'.trans hrsp⟩
  · obtain ⟨hstall, hhold⟩ := Bool.and_eq_true_iff.mp hstop
    obtain ⟨t, todo, gap, w, hrun, ⟨sda, scl, fl, rfl⟩, -⟩ :=
      busCommand_heldUp (u := u) (h := h) hbus hx hlegal hstall hhold n
    rw [hrun]
    exact ⟨rfl, rfl, rfl, rfl, rfl, rfl, rfl, rfl, rfl, rfl⟩

end Sys2Proof.Proofs

namespace Sys2Proof.Proofs

open Sys2Proof.Machine

/-! ### One observation of the monitor (R208) -/

/-- With the clock line low a monitor sees nothing. -/
@[simp] theorem observe_low (v : Levels) (bits : List Bool) (seen : List WireEvent) (x : Bool) :
    Monitor.observe ⟨v, bits, seen⟩ (x, false) = ⟨(x, false), bits, seen⟩ := by
  simp [Monitor.observe]

/-- When the clock line goes high a data bit is taken. -/
theorem observe_rise {bits : List Bool} (hlength : bits.length < 8) (v x : Bool) (seen : List WireEvent) :
    Monitor.observe ⟨(v, false), bits, seen⟩ (x, true) = ⟨(x, true), bits ++ [x], seen⟩ := by
  simp [Monitor.observe, Nat.ne_of_lt hlength]

/-- After eight data bits it is the ninth level. -/
theorem observe_ninth {bits : List Bool} (hlength : bits.length = 8) (v x : Bool) (seen : List WireEvent) :
    Monitor.observe ⟨(v, false), bits, seen⟩ (x, true) = ⟨(x, true), [], seen ++ [.byte (byteOfBits bits) x]⟩ := by
  simp [Monitor.observe, hlength]

/-- The data line keeps its level while the clock line is high. -/
@[simp] theorem observe_same (x : Bool) (bits : List Bool) (seen : List WireEvent) :
    Monitor.observe ⟨(x, true), bits, seen⟩ (x, true) = ⟨(x, true), bits, seen⟩ := by
  simp [Monitor.observe]

@[simp] theorem observe_fall (bits : List Bool) (seen : List WireEvent) :
    Monitor.observe ⟨(true, true), bits, seen⟩ (false, true) = ⟨(false, true), [], seen ++ [.startCond]⟩ := rfl

@[simp] theorem observe_stop (bits : List Bool) (seen : List WireEvent) :
    Monitor.observe ⟨(false, true), bits, seen⟩ (true, true) = ⟨(true, true), [], seen ++ [.stopCond]⟩ := rfl

@[simp] theorem watch_nil (m : Monitor) : m.watch [] = m := rfl

@[simp] theorem watch_cons (m : Monitor) (l : Levels) (ls : List Levels) :
    m.watch (l :: ls) = (m.observe l).watch ls := rfl

/-! ### The monitor during a byte (R204, R205, R208) -/

/-- A stretch of levels, from one low clock level to the next, in which a monitor takes the data bit `x`. -/
def showsBit (x : Bool) (ls : List Levels) : Prop :=
  ∀ (v : Bool) (bits : List Bool) (seen : List WireEvent), bits.length < 8 →
    ∃ v', Monitor.watch ⟨(v, false), bits, seen⟩ ls = ⟨(v', false), bits ++ [x], seen⟩

theorem watch_bits {xs : List Bool} {lss : List (List Levels)} (hshows : List.Forall₂ showsBit xs lss) (v : Bool)
    {bits : List Bool} (seen : List WireEvent) (hlength : bits.length + xs.length ≤ 8) :
    ∃ v', Monitor.watch ⟨(v, false), bits, seen⟩ lss.flatten = ⟨(v', false), bits ++ xs, seen⟩ := by
  induction hshows generalizing v bits with
  | nil => exact ⟨v, by simp⟩
  | @cons x _ _ _ hbit _ ih =>
    rw [List.length_cons] at hlength
    obtain ⟨v₁, hfirst⟩ := hbit v bits seen (by omega)
    obtain ⟨v₂, hrest⟩ := ih v₁ (bits := bits ++ [x]) (by rw [List.length_append, List.length_singleton]; omega)
    exact ⟨v₂, by rw [List.flatten_cons, Monitor.watch_append, hfirst, hrest, List.append_assoc]; rfl⟩

/-- The levels of a bit of WRITE_BYTE. -/
def writePulse (x : Bool) : List Levels := [(x, false), (x, true), (x, false)]

/-- The levels of bit `k` of a byte read: the target changes the data line when the clock line has gone low. -/
def readPulse (d : Byte) (k : Nat) : List Levels := [(sentBit d k, true), (sentBit d k, true), (sentBit d (k + 1), false)]

theorem writePulse_showsBit (x : Bool) : showsBit x (writePulse x) :=
  fun v bits seen hlength => ⟨x, by simp [writePulse, observe_rise hlength]⟩

theorem readPulse_showsBit (d : Byte) (k : Nat) : showsBit (sentBit d k) (readPulse d k) :=
  fun v bits seen hlength => ⟨sentBit d (k + 1), by simp [readPulse, observe_rise hlength]⟩

theorem wireLevels_writeBits {n : Nat} (hn : n ≤ 8) {s : State} (hscl : s.sclO = false) :
    wireLevels (List.replicate n writeBit).flatten (List.replicate n [true, true, true]).flatten s =
      ((List.range n).map fun k => writePulse (sentBit s.inFlight.shr k)).flatten := by
  induction n generalizing s with
  | zero => rfl
  | succ n ih =>
    have hbit : wireLevels writeBit [true, true, true] s = writePulse (sentBit s.inFlight.shr 0) := by
      simp [wireLevels, writeBit, wireApply, State.levels, wiredAnd, driveAt, writePulse, sentBit, hscl]
    have hnext : ((List.range n).map fun k => writePulse (sentBit (s.inFlight.shr <<< 1) k)) =
        (List.range n).map fun k => writePulse (sentBit s.inFlight.shr (k + 1)) := by
      refine List.map_congr_left fun k hk => ?_
      have : k < n := List.mem_range.mp hk
      rw [sentBit_shiftLeft _ (by omega)]
    rw [List.replicate_succ, List.replicate_succ, List.flatten_cons, List.flatten_cons, wireLevels_append rfl, hbit,
      ih (by omega) rfl, List.range_succ_eq_map, List.map_cons, List.flatten_cons, List.map_map]
    exact congrArg (fun lss => _ ++ List.flatten lss) hnext

theorem wireLevels_readBits (d : Byte) (ks : List Nat) {s : State} (hsda : s.sdaO = true) :
    wireLevels (List.replicate ks.length readBit).flatten (ks.map (bitDrive d)).flatten s =
      (ks.map (readPulse d)).flatten := by
  induction ks generalizing s with
  | nil => rfl
  | cons k ks ih =>
    have hbit : wireLevels readBit (bitDrive d k) s = readPulse d k := by
      simp [wireLevels, readBit, bitDrive, wireApply, State.levels, wiredAnd, driveAt, readPulse, hsda]
    have hnext : (runWire readBit (bitDrive d k) s).sdaO = true := hsda
    rw [List.length_cons, List.map_cons, List.replicate_succ, List.flatten_cons, List.flatten_cons, wireLevels_append rfl,
      hbit, ih hnext]
    rfl

/-- From a low clock line a monitor sees a written byte and the target's acknowledge bit. -/
theorem watch_writeByte (v : Bool) (seen : List WireEvent) (brk : Bool) (b : Byte) (d : Draw) {s : State}
    (hscl : s.sclO = false) (hshr : s.inFlight.shr = b) :
    Monitor.watch ⟨(v, false), [], seen⟩ (wireLevels (wireListing brk (.writeByte b)) (targetDrive d (.writeByte b)) s) =
      ⟨(d.nack, false), [], seen ++ [.byte b d.nack]⟩ := by
  have hlevels : wireLevels (wireListing brk (.writeByte b)) (targetDrive d (.writeByte b)) s =
      ((List.range 8).map fun k => writePulse (sentBit b k)).flatten ++
        [(d.nack, false), (d.nack, true), (d.nack, true), (d.nack, false)] := by
    rw [← hshr, ← wireLevels_writeBits (Nat.le_refl 8) hscl]
    exact wireLevels_append rfl writeAck [d.nack, d.nack, d.nack, d.nack] s
  have hshows : List.Forall₂ showsBit (sentBits b) ((List.range 8).map fun k => writePulse (sentBit b k)) := by
    rw [sentBits, List.forall₂_map_left_iff, List.forall₂_map_right_iff]
    exact List.forall₂_same.mpr fun k _ => writePulse_showsBit _
  obtain ⟨v', hbits⟩ := watch_bits hshows v (bits := []) seen (Nat.le_refl 8)
  rw [hlevels, Monitor.watch_append, hbits, List.nil_append]
  simp [observe_ninth (show (sentBits b).length = 8 from rfl), byteOfBits_sentBits]

theorem wireLevels_readAck (a : Bool) {s : State} (hscl : s.sclO = false) :
    wireLevels (readAck a) [] s = [(!a, false), (!a, true), (!a, false), (true, false)] := by
  cases a <;> simp [wireLevels, readAck, wireApply, State.levels, wiredAnd, driveAt, hscl]

/-- From a low clock line a monitor sees a byte read, and a low ninth level for an acknowledge. -/
theorem watch_readByte (v : Bool) (seen : List WireEvent) (brk a : Bool) (d : Draw) {s : State}
    (hscl : s.sclO = false) :
    Monitor.watch ⟨(v, false), [], seen⟩ (wireLevels (wireListing brk (.readByte a)) (targetDrive d (.readByte a)) s) =
      ⟨(true, false), [], seen ++ [.byte d.data (!a)]⟩ := by
  have hlevels : wireLevels (wireListing brk (.readByte a)) (targetDrive d (.readByte a)) s =
      (sentBit d.data 0, false) :: (((List.range 8).map (readPulse d.data)).flatten ++
        [(!a, false), (!a, true), (!a, false), (true, false)]) := by
    calc wireLevels (wireListing brk (.readByte a)) (targetDrive d (.readByte a)) s
      _ = (sentBit d.data 0, s.sclO && true) :: wireLevels ((List.replicate 8 readBit).flatten ++ readAck a)
          (((List.range 8).map (bitDrive d.data)).flatten ++ []) (wireApply true .sdaRelease s) := rfl
      _ = _ := by
        rw [wireLevels_append rfl, hscl]
        exact congrArg₂ (fun bits ack => _ :: (bits ++ ack)) (wireLevels_readBits d.data (List.range 8) rfl)
          (wireLevels_readAck a rfl)
  have hshows : List.Forall₂ showsBit (sentBits d.data) ((List.range 8).map (readPulse d.data)) := by
    rw [sentBits, List.forall₂_map_left_iff, List.forall₂_map_right_iff]
    exact List.forall₂_same.mpr fun k _ => readPulse_showsBit d.data k
  obtain ⟨v', hbits⟩ := watch_bits hshows (sentBit d.data 0) (bits := []) seen (Nat.le_refl 8)
  rw [hlevels, watch_cons, observe_low, Monitor.watch_append, hbits, List.nil_append]
  simp [observe_ninth (show (sentBits d.data).length = 8 from rfl), byteOfBits_sentBits]

/-! ### The monitor during START, STOP and IDLE (R201 to R203, R206) -/

theorem commandLevels_start (d : Draw) {s : State} (hbrk : s.brk = false) (hscl : s.sclO = true) :
    commandLevels .start d s = [(false, true), (false, false)] := by
  simp [commandLevels, wireLevels, wireListing, wireApply, State.levels, wiredAnd, driveAt, targetDrive, hbrk, hscl]

theorem commandLevels_repStart (d : Draw) {s : State} (hbrk : s.brk = true) (hscl : s.sclO = false) :
    commandLevels .start d s = [(true, false), (true, true), (false, true), (false, false)] := by
  simp [commandLevels, wireLevels, wireListing, wireApply, State.levels, wiredAnd, driveAt, targetDrive, hbrk, hscl]

theorem commandLevels_stop (d : Draw) {s : State} (hscl : s.sclO = false) :
    commandLevels .stop d s = [(false, false), (false, true), (true, true)] := by
  simp [commandLevels, wireLevels, wireListing, wireApply, State.levels, wiredAnd, driveAt, targetDrive, hscl]

theorem commandLevels_idle (d : Draw) {s : State} (hscl : s.sclO = true) :
    commandLevels .idle d s = [(true, true), (true, true)] := by
  simp [commandLevels, wireLevels, wireListing, wireApply, State.levels, wiredAnd, driveAt, targetDrive, hscl]

/-- Between two released lines a monitor sees a start condition, or nothing. -/
theorem watch_outsideBracket {i : Instr} (hbus : isBusCommand i = true) (hlegal : bracketLegal i false = true)
    (seen : List WireEvent) (d : Draw) {s : State} (hbrk : s.brk = false) (hscl : s.sclO = true) :
    Monitor.watch ⟨(true, true), [], seen⟩ (commandLevels i d s) =
      ⟨exitLines i, [], seen ++ (eventsOf (s.withDraw d) i).flatMap wireEventOf⟩ := by
  cases i with
  | start =>
    rw [commandLevels_start d hbrk hscl]
    simp [eventsOf, hbrk, wireEventOf, exitLines]
  | idle =>
    rw [commandLevels_idle d hscl]
    simp [eventsOf, wireEventOf, exitLines]
  | stop | writeByte | readByte => cases hlegal
  | sendChar c => cases hbus

/-- From a low clock line a monitor sees a repeated start, a stop or a byte. -/
theorem watch_insideBracket {i : Instr} (hbus : isBusCommand i = true) (hlegal : bracketLegal i true = true) (v : Bool)
    (seen : List WireEvent) (d : Draw) {s : State} (hbrk : s.brk = true) (hscl : s.sclO = false) :
    ∃ v', Monitor.watch ⟨(v, false), [], seen⟩ (commandLevels i d s) =
        ⟨(v', (exitLines i).2), [], seen ++ (eventsOf (s.withDraw d) i).flatMap wireEventOf⟩ ∧
      ((exitLines i).2 = true → v' = true) := by
  cases i with
  | start =>
    rw [commandLevels_repStart d hbrk hscl]
    exact ⟨false, by simp [observe_rise, eventsOf, hbrk, wireEventOf, exitLines], nofun⟩
  | stop =>
    rw [commandLevels_stop d hscl]
    exact ⟨true, by simp [observe_rise, eventsOf, wireEventOf, exitLines], fun _ => rfl⟩
  | writeByte b => exact ⟨d.nack, watch_writeByte v seen s.brk b d hscl rfl, nofun⟩
  | readByte a => exact ⟨true, watch_readByte v seen s.brk a d hscl, nofun⟩
  | idle => cases hlegal
  | sendChar c => cases hbus

/-- A monitor at rest sees the image of the command's events, has no half byte after them, and then sees the lines as the
block leaves them. -/
theorem watch_commandLevels {i : Instr} (hbus : isBusCommand i = true) (d : Draw) {s : State} {m : Monitor}
    (hlegal : bracketLegal i s.brk = true) (hrest : wireRest s m) :
    ∃ v, m.watch (commandLevels i d s) =
        ⟨(v, (exitLines i).2), [], m.seen ++ (eventsOf (s.withDraw d) i).flatMap wireEventOf⟩ ∧
      ((exitLines i).2 = true → v = true) := by
  obtain ⟨before, bits, seen⟩ := m
  obtain ⟨hbits, hlines⟩ := hrest
  obtain rfl : bits = [] := hbits
  cases hbrk : s.brk with
  | false =>
    rw [hbrk] at hlines hlegal
    obtain ⟨hbefore, -, hscl⟩ := hlines
    obtain rfl : before = (true, true) := hbefore
    refine ⟨(exitLines i).1, watch_outsideBracket hbus hlegal seen d hbrk hscl, ?_⟩
    cases i <;> simp [exitLines]
  | true =>
    rw [hbrk] at hlines hlegal
    obtain ⟨hbefore, hscl⟩ := hlines
    obtain ⟨v, c⟩ := before
    obtain rfl : c = false := hbefore
    exact watch_insideBracket hbus hlegal v seen d hbrk hscl

/-! ### Bus commands one after the other, and the monitor watching (R210, R211) -/

/-- The clock line is left low exactly by the commands that leave a bracket open, and both lines are released by the
others (R211). -/
theorem exitLines_of_bracketAfter {i : Instr} (hbus : isBusCommand i = true) {b b' : Bool}
    (hafter : CommandList.bracketAfter i b = some b') :
    (exitLines i).2 = !b' ∧ (b' = false → exitLines i = (true, true)) := by
  cases i with
  | sendChar c => cases hbus
  | _ => cases b <;> cases hafter <;> exact ⟨rfl, by simp [exitLines]⟩

/-- One command on the wires: its events, and block and monitor are at rest again (R210, R211). -/
theorem wireCommand_atRest {i : Instr} (hbus : isBusCommand i = true) (d : Draw) {s : State} {m : Monitor} {b : Bool}
    (hafter : CommandList.bracketAfter i s.brk = some b) (hrest : wireRest s m) :
    (wireCommand i d s).brk = b ∧
    (wireCommand i d s).busTrace = s.busTrace ++ eventsOf (s.withDraw d) i ∧
    (m.watch (commandLevels i d s)).seen = m.seen ++ (eventsOf (s.withDraw d) i).flatMap wireEventOf ∧
    wireRest (wireCommand i d s) (m.watch (commandLevels i d s)) := by
  have hlegal : bracketLegal i s.brk = true := by rw [bracketLegal_eq_isSome, hafter]; rfl
  obtain ⟨hend, -⟩ := finishBus_refines hbus (d := d)
    (endState_of_load (s := s.withDraw d) (onlyWires_runWire (wireListing s.brk i) (targetDrive d i) _))
    (runWire_holdsAnswer i s.brk d _)
  have hbrk : (wireCommand i d s).brk = b := (congrArg EndState.brk hend).trans (finished_brk hafter)
  have htrace : (wireCommand i d s).busTrace = s.busTrace ++ eventsOf (s.withDraw d) i :=
    (congrArg EndState.busTrace hend).trans (finished_busTrace i _)
  obtain ⟨hsda, hscl⟩ := runWire_exitLines hbus s.brk d ((s.withDraw d).load i)
  obtain ⟨hsda', hscl'⟩ := finishBus_lines i hsda hscl
  obtain ⟨hclock, hreleased⟩ := exitLines_of_bracketAfter hbus hafter
  obtain ⟨v, hwatch, hv⟩ := watch_commandLevels hbus d hlegal hrest
  rw [hwatch]
  refine ⟨hbrk, htrace, rfl, rfl, ?_⟩
  rw [hbrk]
  cases b with
  | true => exact ⟨hclock, hscl'.trans (hscl.trans hclock)⟩
  | false =>
    have hexit : exitLines i = (true, true) := hreleased rfl
    rw [hexit] at hsda hscl hv
    exact ⟨by rw [hv rfl, hexit], hsda'.trans hsda, hscl'.trans hscl⟩

/-- A list that keeps the bracket discipline: the monitor sees the image of its events, command by command. -/
theorem runWireAll_seen {cs : List (Instr × Draw)} {s : State} {m : Monitor} (hbus : ∀ p ∈ cs, isBusCommand p.1 = true)
    (hkeeps : CommandList.bracketsFrom s.brk (cs.map Prod.fst) ≠ none) (hrest : wireRest s m) :
    ∃ evs, (runWireAll cs (s, m)).1.busTrace = s.busTrace ++ evs ∧
      (runWireAll cs (s, m)).2.seen = m.seen ++ evs.flatMap wireEventOf ∧
      wireRest (runWireAll cs (s, m)).1 (runWireAll cs (s, m)).2 := by
  induction cs generalizing s m with
  | nil => exact ⟨[], (List.append_nil _).symm, (List.append_nil _).symm, hrest⟩
  | cons c cs ih =>
    obtain ⟨i, d⟩ := c
    obtain ⟨hi, hbus⟩ := List.forall_mem_cons.mp hbus
    obtain ⟨b, hb⟩ := Option.ne_none_iff_exists'.mp hkeeps
    obtain ⟨b', hafter, hkeeps'⟩ := Option.bind_eq_some_iff.mp hb
    obtain ⟨hbrk, htrace, hseen, hrest'⟩ := wireCommand_atRest hi d hafter hrest
    obtain ⟨evs, htrace', hseen', hend⟩ := ih hbus (by rw [hbrk, hkeeps']; nofun) hrest'
    refine ⟨eventsOf (s.withDraw d) i ++ evs, ?_, ?_, hend⟩
    · rw [← List.append_assoc, ← htrace]
      exact htrace'
    · rw [List.flatMap_append, ← List.append_assoc, ← hseen]
      exact hseen'

/-! ### Lists that keep the direction discipline (R51, R52, R210) -/

theorem ofAddress_ne_closed (b : Byte) : BusPhase.ofAddress b ≠ .closed := by
  unfold BusPhase.ofAddress
  split <;> nofun

/-- The direction discipline is within the bracket discipline, and the phase tells the bracket state. -/
theorem bracketAfter_of_phaseAfter {i : Instr} {ph ph' : BusPhase} {b : Bool}
    (hphase : CommandList.phaseAfter i ph = some ph') (hb : b = false ↔ ph = .closed) :
    ∃ b', CommandList.bracketAfter i b = some b' ∧ (b' = false ↔ ph' = .closed) := by
  cases i with
  | start =>
    cases hphase
    exact ⟨true, rfl, by simp⟩
  | sendChar c =>
    cases hphase
    exact ⟨b, rfl, hb⟩
  | idle =>
    cases ph with
    | closed =>
      cases hphase
      obtain rfl : b = false := hb.mpr rfl
      exact ⟨false, rfl, by simp⟩
    | _ => cases hphase
  | stop | writeByte | readByte =>
    cases b with
    | false =>
      obtain rfl : ph = .closed := hb.mp rfl
      cases hphase
    | true => cases ph <;> cases hphase <;> exact ⟨_, rfl, by simp [ofAddress_ne_closed]⟩

/-- The monitor decodes a command's events from their image, but for `I`, and is then in the command's phase. -/
theorem decode_eventsOf {i : Instr} {s : State} {ph ph' : BusPhase} (hbus : isBusCommand i = true)
    (hphase : CommandList.phaseAfter i ph = some ph') (hb : s.brk = false ↔ ph = .closed) (es : List WireEvent) :
    decodeWireEvents ph ((eventsOf s i).flatMap wireEventOf ++ es) =
      (eventsOf s i).filter (fun e => decide (e ≠ .idle)) ++ decodeWireEvents ph' es := by
  cases i with
  | start =>
    cases hphase
    cases hbrk : s.brk with
    | false =>
      obtain rfl : ph = .closed := hb.mp hbrk
      simp [eventsOf, hbrk, wireEventOf, decodeWireEvents, decodeWireEvent]
    | true =>
      cases ph with
      | closed => cases hbrk.symm.trans (hb.mpr rfl)
      | _ => simp [eventsOf, hbrk, wireEventOf, decodeWireEvents, decodeWireEvent]
  | stop | writeByte | idle => cases ph <;> cases hphase <;> rfl
  | readByte a =>
    cases ph <;> cases hphase
    simp [eventsOf, wireEventOf, decodeWireEvents, decodeWireEvent]
  | sendChar c => cases hbus

/-- A list that keeps the direction discipline: the monitor decodes its events, command by command. -/
theorem runWireAll_decoded {cs : List (Instr × Draw)} {s : State} {m : Monitor} {ph : BusPhase}
    (hbus : ∀ p ∈ cs, isBusCommand p.1 = true) (hkeeps : CommandList.phasesFrom ph (cs.map Prod.fst) ≠ none)
    (hb : s.brk = false ↔ ph = .closed) (hrest : wireRest s m) :
    ∃ evs seen, (runWireAll cs (s, m)).1.busTrace = s.busTrace ++ evs ∧
      (runWireAll cs (s, m)).2.seen = m.seen ++ seen ∧
      decodeWireEvents ph seen = evs.filter (fun e => decide (e ≠ .idle)) := by
  induction cs generalizing s m ph with
  | nil => exact ⟨[], [], (List.append_nil _).symm, (List.append_nil _).symm, rfl⟩
  | cons c cs ih =>
    obtain ⟨i, d⟩ := c
    obtain ⟨hi, hbus⟩ := List.forall_mem_cons.mp hbus
    obtain ⟨phEnd, hsome⟩ := Option.ne_none_iff_exists'.mp hkeeps
    obtain ⟨ph', hphase, hkeeps'⟩ := Option.bind_eq_some_iff.mp hsome
    obtain ⟨b', hafter, hb'⟩ := bracketAfter_of_phaseAfter hphase hb
    obtain ⟨hbrk, htrace, hseen, hrest'⟩ := wireCommand_atRest hi d hafter hrest
    obtain ⟨evs, seen, htrace', hseen', hdecoded⟩ :=
      ih hbus (by rw [hkeeps']; nofun) (by rw [hbrk]; exact hb') hrest'
    refine ⟨eventsOf (s.withDraw d) i ++ evs, (eventsOf (s.withDraw d) i).flatMap wireEventOf ++ seen, ?_, ?_, ?_⟩
    · rw [← List.append_assoc, ← htrace]
      exact htrace'
    · rw [← List.append_assoc, ← hseen]
      exact hseen'
    · rw [List.filter_append, ← hdecoded]
      exact decode_eventsOf (s := s.withDraw d) hi hphase hb seen

theorem phasesFrom_readsThenStop {cs : List Instr} (h : CommandList.readsThenStop cs = true) :
    CommandList.phasesFrom .reading cs = some .closed := by
  fun_induction CommandList.readsThenStop cs with
  | case1 is ih => exact ih h
  | case2 => rfl
  | case3 => cases h

theorem phasesFrom_afterWriteAddress {cs : List Instr} (h : CommandList.afterWriteAddress cs = true) :
    CommandList.phasesFrom .writing cs = some .closed := by
  fun_induction CommandList.afterWriteAddress cs with
  | case1 => rfl
  | case2 b is ih => exact ih h
  | case3 a is =>
    obtain ⟨haddress, hreads⟩ := Bool.and_eq_true_iff.mp h
    obtain rfl := of_decide_eq_true haddress
    exact phasesFrom_readsThenStop hreads
  | case4 => cases h

theorem phasesFrom_isTransaction {cs : List Instr} (h : CommandList.isTransaction cs = true) :
    CommandList.phasesFrom .closed cs = some .closed := by
  unfold CommandList.isTransaction at h
  split at h
  next a is =>
    obtain ⟨haddress, hafter⟩ := Bool.and_eq_true_iff.mp h
    obtain rfl := of_decide_eq_true haddress
    exact phasesFrom_afterWriteAddress hafter
  next => cases h

/-- Settles O53: it holds, by induction on the list; after each command block and monitor are at rest again. -/
theorem monitorRecoversBusTrace : Obligations.MonitorRecoversBusTrace :=
  ⟨fun _ _ _ hbus hkeeps hrest => runWireAll_seen hbus hkeeps hrest,
    fun _ _ _ _ hbus hkeeps hb hrest => runWireAll_decoded hbus hkeeps hb hrest,
    fun _ => phasesFrom_isTransaction⟩

end Sys2Proof.Proofs

namespace Sys2Proof.Proofs

open Sys2Proof.Machine

/-! ### Steps in which nothing is accepted (R240, R244, R261) -/

/-- With no command in flight, a step in which nothing can be accepted leaves the end state and gives no response; only
the host's list goes on. -/
theorem step_quiet {s : State} (hquiet : portQuiet s) (hbusy : s.busy = false) :
    ∃ t, step s = .next t ∧ t.endState = s.endState ∧ t.rsp = none ∧ t.host = pastWait s.rsp s.host :=
  ⟨_, step_settles hquiet hbusy, rfl, rfl, rfl⟩

theorem portQuiet_of_flt {s : State} (hflt : s.flt ≠ 0#2) (hno : s.noResetNext) : portQuiet s :=
  ⟨hno, fun _ _ _ => not_cmdReady_of_flt hflt⟩

/-- A host that comes neither to a reset nor to an offer leaves the port quiet. -/
theorem portQuiet_of_no_word {s : State} {acts : List HostAct} (hhost : s.host = acts)
    (hno : ∀ more, acts ≠ .reset :: more) (hword : ∀ w more, acts ≠ .offer w :: more) : portQuiet s := by
  subst hhost
  exact ⟨hno, fun w more hoffer => absurd hoffer (hword w more)⟩

/-- Settles O11: it holds; a faulted block is not ready, so its port is quiet whatever is offered, and an offer is not
among the things of the host's that pass. -/
theorem faultedBlockAcceptsNothing : Obligations.FaultedBlockAcceptsNothing := by
  refine ⟨fun s hflt hbusy hno => ?_, fun s hbusy hhost => ?_⟩
  · obtain ⟨t, hstep, hend, hrsp, hpast⟩ := step_quiet (portQuiet_of_flt hflt hno) hbusy
    refine ⟨t, hstep, hend, hrsp, fun w acts hoffer => ?_⟩
    rw [hpast, hoffer]
    rfl
  · have hquiet : portQuiet s := by
      rcases hhost with hnil | ⟨acts, hwait | htake | hsend⟩
      · exact portQuiet_of_no_word hnil nofun nofun
      · exact portQuiet_of_no_word hwait nofun nofun
      · exact portQuiet_of_takeReading htake
      · exact portQuiet_of_no_word hsend nofun nofun
    obtain ⟨t, hstep, hend, hrsp, -⟩ := step_quiet hquiet hbusy
    exact ⟨t, hstep, hend, hrsp⟩

/-! ### Commands the bracket discipline forbids (R110, R240, R242) -/

/-- After a bracket violation there is a fault: the new one, or the one there was. -/
theorem stickyFlt_busProtocol_ne_zero (old : BitVec 2) : stickyFlt old fltBusProtocol ≠ 0#2 := by
  by_cases hold : old = 0#2
  · rw [hold, stickyFlt_zero]
    decide
  · rwa [stickyFlt_of_ne _ hold]

/-- A forbidden command takes BUS_PROTOCOL by the sticky rule, changes nothing else and leaves a block that is not
ready. -/
theorem exec_forbidden_faultTaken {i : Instr} {s : State} (hforbidden : bracketLegal i s.brk = false) :
    ∃ t, exec i s = .next t ∧ faultTaken (stickyFlt s.flt fltBusProtocol) s t ∧ t.host = s.host ∧ t.cmdReady = false :=
  ⟨_, exec_forbidden hforbidden, faultTaken_takeFault _ s, rfl,
    not_cmdReady_of_flt (stickyFlt_busProtocol_ne_zero s.flt)⟩

/-- Settles O12: it holds; each of these commands is forbidden in that bracket state, and `FLT` 0 takes the code. -/
theorem bracketViolationsFault : Obligations.BracketViolationsFault := by
  intro s hflt
  have htakes {i : Instr} (hforbidden : bracketLegal i s.brk = false) :
      ∃ t, exec i s = .next t ∧ faultTaken 2#2 s t ∧ t.host = s.host ∧ t.cmdReady = false := by
    have hcode : stickyFlt s.flt fltBusProtocol = 2#2 := if_pos hflt
    exact hcode ▸ exec_forbidden_faultTaken hforbidden
  refine ⟨fun hclosed i hi => htakes ?_, fun hopen => htakes (by simp [hopen])⟩
  rcases hi with rfl | ⟨b, rfl⟩ | ⟨a, rfl⟩
  · exact hclosed
  · exact hclosed
  · exact hclosed

/-- Settles O13: it holds; a command with no bracket state after it is one the check at acceptance forbids. -/
theorem forbiddenCommandChangesOnlyFlt : Obligations.ForbiddenCommandChangesOnlyFlt := by
  intro i s hnone
  have hforbidden : bracketLegal i s.brk = false := by
    rw [bracketLegal_eq_isSome, hnone]
    rfl
  obtain ⟨t, hexec, htaken, hhost, -⟩ := exec_forbidden_faultTaken hforbidden
  exact ⟨t, hexec, htaken, hhost⟩

/-! ### A hang (R118, R233) -/

/-- Settles O25: it holds; under the invariant a command in flight has a stall point and stands in an open bracket with
no fault, so it is permitted there and the target's hold alone decides between parking it and completing it. -/
theorem hangEndsOnlyByRelease : Obligations.HangEndsOnlyByRelease := by
  intro i s t hinv _ hheld hexec
  obtain ⟨hmay, hopen, hflt⟩ := hinv.busyMeansHeld.2 i hheld
  refine ⟨fun hreleased => ?_, fun hhold => ?_⟩
  · have hlegal : bracketLegal i s.brk = true := by rw [hopen, bracketLegal_of_mayStall hmay]
    obtain rfl := Host.Outcome.next.inj ((exec_finished hlegal (stalls_of_released i hreleased)).symm.trans hexec)
    obtain ⟨hbusy, hnone, hrsp⟩ := finished_respondsWith i s
    exact ⟨hbusy, by rw [hrsp]; rfl, hnone, (finished_flt i s).trans hflt⟩
  · obtain rfl := Host.Outcome.next.inj ((exec_stalled hmay hopen hhold).symm.trans hexec)
    exact ⟨rfl, rfl, hflt, rfl, rfl, rfl, rfl, rfl, ⟨rfl, rfl, rfl⟩⟩

/-! ### The acknowledge (R111, R232) -/

/-- A byte sent inside a bracket to a target that lets go is sent whole, whatever the acknowledge bit. -/
theorem exec_writeByte_answered (b : Byte) {s : State} {d : Draw} (hopen : s.brk = true) (hreleased : d.hold = false) :
    exec (.writeByte b) (s.withDraw d) = .next (finished (.writeByte b) (s.withDraw d)) :=
  exec_finished hopen (stalls_of_released _ hreleased)

/-- Settles O26: it holds; `NACK` has WRITE_BYTE as its one writer, and the two completed writes agree in every field of
the end state that the acknowledge bit does not give. -/
theorem acknowledgeIsNeverChecked : Obligations.AcknowledgeIsNeverChecked := by
  refine ⟨fun i s t hexec hset hclear => ?_, fun b s d hopen hreleased => ?_⟩
  · obtain ⟨honlyWrite, -, -⟩ := eachRegisterHasOneWriter i s t hexec
    exact honlyWrite (by simp [hset, hclear])
  · exact ⟨_, _, exec_writeByte_answered b hopen hreleased, exec_writeByte_answered b hopen hreleased, rfl, rfl, rfl, rfl,
      rfl⟩

end Sys2Proof.Proofs

namespace Sys2Proof.Proofs

open Sys2Proof.Machine

/-! ### Reset from any state (R260, R261) -/

theorem hardReset_endState (s : State) : s.hardReset.endState = State.reset.endState := rfl

/-- R260: the first command can be accepted right after a reset, whatever fault or hang it ended. -/
theorem hardReset_cmdReady (s : State) : s.hardReset.cmdReady = true :=
  (cmdReady_iff _).mpr ⟨s.hardReset_busy, s.hardReset_flt⟩

/-- Settles O9: it holds; the step and the edge under reset both end in `hardReset`, which keeps no register or trace. -/
theorem resetRestoresFromAnyState : Obligations.ResetRestoresFromAnyState := by
  refine ⟨fun s acts hreset => ?_, fun u h p c hrst => ?_⟩
  · exact ⟨_, step_reset hreset, hardReset_endState _, State.hardReset_rsp _, State.hardReset_held _,
      State.hardReset_host _, hardReset_cmdReady _⟩
  · rw [edgeWith_reset hrst]
    exact ⟨hardReset_endState _, State.hardReset_rsp _, rfl, hardReset_cmdReady _⟩

end Sys2Proof.Proofs
